-- ==== Sys2Proof/Word.lean ====
section
/-! DEFINITION. The bus and word types of the block (spec/30_encoding.md R45, R47). Arithmetic on them stands in
Machine/Operands.lean. -/

namespace Sys2Proof

/-- A one-bit port or flag: true is 1, false is 0 (R10, R45). -/
abbrev Level := Bool

/-- `cmd_op`, bits 34:32 of a command word (R45, R47). -/
abbrev CmdOp := BitVec 3

/-- `cmd_arg`, bits 31:0 of a command word; `ARG_WIDTH` is 32 (R8, R47). -/
abbrev CmdArg := BitVec 32

/-- The whole command word, `op` above `arg` (R47). -/
abbrev CmdWord := BitVec 35

/-- `rsp_data` (R45); as wide as `cmd_arg` (R8). -/
abbrev RspWord := BitVec 32

end Sys2Proof
end

