-- ==== Sys2Proof/Config.lean ====
section
/-! DEFINITION. What is fixed for one instance of the block (its parameters, spec/00_scope.md R8), the pins the
environment drives in a cycle (spec/30_encoding.md R45), and the one free value: the pins that nothing has scheduled. -/

namespace Sys2Proof

/-- The OPEN parameters of R8. A model takes each as an argument: they stand in the machine's state, no step changes
them, and a statement over all states is a statement over all of them (log entry 1, DESIGN CHOICE). The decided and
derived parameters (`MAX_DELAY_TICKS`, `TD_WIDTH`) are functions of these in Machine/Operands.lean. -/
structure Params where
  /-- `W`, the width in bits of the shared counter and of each compare register. -/
  w : Nat
  /-- `F_TICK` in hertz, used only to convert seconds to ticks (R86). -/
  fTick : Rat
  /-- `DEBOUNCE_TICKS`, the debounce window in ticks. -/
  debounceTicks : Nat
  /-- `TONE_HALF_CYCLES`, the half-period of the tone in cycles of `clk`. -/
  toneHalfCycles : Nat
  /-- `F_CLK` in hertz, used only to state the tone frequency (R94). -/
  fClk : Rat
  /-- `BTN_ACTIVE_LEVEL`, the level of `btn_in` that means pressed. -/
  btnActiveLevel : Level
deriving DecidableEq, Repr

/-- The input pins during one cycle (R45). `clk` is the step itself. -/
structure Inputs where
  /-- `rst`, synchronous reset, active high. -/
  rst : Level
  /-- `btn_in`, the button line, already synchronised to `clk` (R120). -/
  btnIn : Level
  /-- `tick`, the timer tick strobe, sampled as a level once per cycle (R121). -/
  tick : Level
  /-- `cmd_valid`: a command is presented this cycle. -/
  cmdValid : Level
  /-- `cmd_op`. -/
  cmdOp : CmdOp
  /-- `cmd_arg`. -/
  cmdArg : CmdArg
deriving DecidableEq, Repr, Inhabited

/-- The 35-bit word on the command port, `op` in bits 34:32 (R47). -/
def Inputs.word (i : Inputs) : CmdWord := i.cmdOp ++ i.cmdArg

/-- FREE VALUE (log entry 6, DESIGN CHOICE, safe): the pins in a cycle, by its number, for which the environment has
scheduled none. R98: "The block's non-determinism is entirely in its inputs". It has no body, so nothing can be proved
of what it gives. -/
opaque Config.freeInputs : Nat → Inputs

/-- One instance: the vector parameters of spec/95_test_vectors.md section 0, and `F_CLK` equal to `F_TICK` because those
vectors tick in every cycle. `State.reset` is a machine of this instance (log entries 2 and 3, DESIGN CHOICE); the
parameters are OPEN in the spec and no statement rests on these values. -/
def Params.vector : Params :=
  { w := 16, fTick := 1000, debounceTicks := 3, toneHalfCycles := 2, fClk := 1000, btnActiveLevel := true }

end Sys2Proof
end

