-- ==== Sys2Proof/Machine/State.lean ====
section
/-! DEFINITION. The state of the block as plain data: the registers of spec/10_state.md R17, the parameters of the
instance, and the pins the environment has scheduled; the reasons a step can stop; the state after reset. -/

namespace Sys2Proof.Machine

/-- `chk_mode` (R19). The source's `ARMED_CAPTURE` is never held in a register (R19, R56). -/
inductive ChMode where
  /-- `IDLE` = 0: disabled, no event pending. -/
  | idle
  /-- `ARMED_COMPARE` = 1: a one-shot compare against `chk_ccr` is pending. -/
  | armedCompare
deriving DecidableEq, Repr

/-- A capture/compare channel of the shared counter: `chk_mode` and `chk_ccr` (R19, R20, R56). -/
structure Channel where
  /-- `chk_mode`. -/
  mode : ChMode
  /-- `chk_ccr`, W bits, the compare target (log entry 8). -/
  ccr : Nat
deriving DecidableEq, Repr

/-- `deb_state` (R21). -/
inductive DebState where
  /-- `IDLE` = 0: edge events are enabled. -/
  | idle
  /-- `CAPTURED` = 1: a debounce window is open. -/
  | captured
deriving DecidableEq, Repr

/-- `deb_pol` (R22): which polarity opened the window. -/
inductive Polarity where
  /-- `RELEASE` = 0. -/
  | release
  /-- `PRESS` = 1. -/
  | press
deriving DecidableEq, Repr

/-- `ptt_state` (R25). Its encoding 2'b11 is never written, and R25 asks for a three-constructor type (log entry 9). -/
inductive PttState where
  /-- `OFF` = 2'b00. -/
  | off
  /-- `ON` = 2'b01. -/
  | on
  /-- `PENDING` = 2'b10. -/
  | pending
deriving DecidableEq, Repr

/-- The registers of R17, "and nothing else". The W-bit registers and the divider are unsigned integers (R10), kept in
their widths by every step (log entry 8, DESIGN CHOICE). -/
structure Regs where
  /-- `cnt`, W bits, the shared free-running counter (R18). -/
  cnt : Nat
  /-- `ch0_mode` and `ch0_ccr`, the debounce engine's channel (R19, R20, R62). -/
  ch0 : Channel
  /-- `ch1_mode` and `ch1_ccr`, the PTT timing engine's channel (R19, R20, R62). -/
  ch1 : Channel
  /-- `deb_state` (R21). -/
  debState : DebState
  /-- `deb_pol` (R22). -/
  debPol : Polarity
  /-- `edge_ifg`, the pending-edge flag, on which no rule acts (R23). -/
  edgeIfg : Bool
  /-- `line_state`, the level of `btn_in` last accepted (R24). -/
  lineState : Level
  /-- `ptt_state` (R25). -/
  pttState : PttState
  /-- `rsp_valid` (R26). -/
  rspValid : Bool
  /-- `rsp_data`, 32 bits (R26). -/
  rspData : RspWord
  /-- `tone_div`, TD_WIDTH bits (R27). -/
  toneDiv : Nat
  /-- `tone_out` (R27). -/
  toneOut : Level
deriving DecidableEq, Repr

/-- The machine: an instance of the block and what its environment has scheduled. -/
structure State where
  /-- The parameters of the instance (R8), which no step changes (log entry 1). -/
  params : Params
  /-- The registers (R17). -/
  regs : Regs
  /-- The MODEL's own field: the pins of the coming cycles, this cycle's first. Past its end the pins are
  `Config.freeInputs` (log entry 6). -/
  inputs : List Inputs
  /-- The MODEL's own field: how many cycles have been stepped, the argument of `Config.freeInputs` (log entry 6). -/
  cycle : Nat
deriving DecidableEq, Repr

/-- R100: "No command and no input combination faults, traps or halts the block." So there is no fault. -/
inductive Fault where
deriving DecidableEq, Repr

/-- Why the model gives a step no meaning. -/
inductive Refusal where
  /-- Raised by an arm of `exec` whose instruction has no meaning yet; no arm raises it now. Safe. -/
  | notModelled (mnemonic : String)
  /-- Raised by every cycle of a configuration that breaks a constraint of R8, which "is not a valid instance. A model
  refuses it, and no behaviour is defined for it". Safe: no behaviour is claimed. -/
  | invalidParameters
deriving DecidableEq, Repr

/-- The machine right after reset (R113): every register at R17's reset value, for the instance `Params.vector` (log
entries 2 and 3) whose button read 0 in the last reset cycle (log entry 5), with no pins scheduled (log entry 6). -/
def State.reset : State :=
  { params := Params.vector
    regs :=
      { cnt := 0
        ch0 := { mode := .idle, ccr := 0 }
        ch1 := { mode := .idle, ccr := 0 }
        debState := .idle
        debPol := .release
        edgeIfg := false
        lineState := false
        pttState := .off
        rspValid := false
        rspData := 0#32
        toneDiv := 0
        toneOut := false }
    inputs := []
    cycle := 0 }

end Sys2Proof.Machine
end

