-- ==== Sys2Proof/Machine/Flags.lean ====
section
/-! DEFINITION. The signals and single-bit status flags (spec/10_state.md R32): the edge signals from which `deb_pol` and
`edge_ifg` are computed (spec/41_debounce.md R65), and `rsp_valid` (spec/30_encoding.md R52). -/

namespace Sys2Proof.Machine

/-- `edge := (btn_in != line_state)` (R65). -/
def edge (r : Regs) (i : Inputs) : Bool := i.btnIn != r.lineState

/-- `active := (btn_in == BTN_ACTIVE_LEVEL)` (R28, R65). -/
def active (p : Params) (i : Inputs) : Bool := i.btnIn == p.btnActiveLevel

/-- `active ? PRESS : RELEASE`, the polarity an accepted edge records in `deb_pol` (R66). -/
def edgePolarity (p : Params) (i : Inputs) : Polarity := if active p i then .press else .release

/-- `rsp_valid` at the end of a cycle: set exactly by a command that answers (R32, R52). -/
def rspValidFlag (answer : Option RspWord) : Bool := answer.isSome

end Sys2Proof.Machine
end

