-- ==== Sys2Proof/Syntax.lean ====
section
/-! DEFINITION. The commands of spec/opcode_table.json, one constructor a row (spec/30_encoding.md R48), and the lines of
a command script with its pseudo-instructions (R53, R54). -/

namespace Sys2Proof

/-- A command on the command port (R48). Every command word carries its 32-bit `arg` (R47); only `ON_DELAY` uses it, and
R49 says the others ignore it entirely, so each constructor keeps it and no bit of an encoding is dropped. Every field
has its width in its type, so every `Instr` is well formed. The reserved opcodes 3'b110 and 3'b111 are no row of the
table and have no mnemonic (R53). -/
inductive Instr where
  /-- `NOP`, op 3'b000 (R78). -/
  | nop (arg : CmdArg)
  /-- `SET_OFF`, op 3'b001 (R79). -/
  | setOff (arg : CmdArg)
  /-- `SET_ON`, op 3'b010 (R80). -/
  | setOn (arg : CmdArg)
  /-- `TOGGLE`, op 3'b011 (R81). -/
  | toggle (arg : CmdArg)
  /-- `ON_DELAY ticks`, op 3'b100 (R83). -/
  | onDelay (arg : CmdArg)
  /-- `GET`, op 3'b101 (R84). -/
  | get (arg : CmdArg)
deriving DecidableEq, Repr

/-- The six mnemonics of a command script (R53). -/
inductive Mnemonic where
  | nop | setOff | setOn | toggle | onDelay | get
deriving DecidableEq, Repr

/-- One line of a command script, as written: it may be ill formed (WellFormed.lean). -/
inductive ScriptLine where
  /-- `<mnemonic> [<ticks>]` (R53). -/
  | command (m : Mnemonic) (ticks : Option Nat)
  /-- `SET ON` or `SET OFF` (R54). -/
  | setState (on : Bool)
  /-- `ON_DELAY_S <seconds>` (R54). -/
  | onDelaySeconds (seconds : Rat)
  /-- `WAIT <n>` (R54). -/
  | wait (n : Nat)
deriving DecidableEq, Repr

end Sys2Proof
end

