-- ==== Sys2Proof/Decode.lean ====
section
/-! DEFINITION. The decoder and the encoder of the one 35-bit command format (spec/30_encoding.md R47, R48, R51), and the
opcode table as rows. -/

namespace Sys2Proof

/-- Why a command word stands for no row of the table. -/
inductive DecodeError where
  /-- Raised by the decoder for op 3'b110 and 3'b111, which R48 and R50 reserve. Safe: the step gives such a command the
  effect of R85, it does not stop. -/
  | reservedOpcode (op : CmdOp)
deriving DecidableEq, Repr

/-- Bits 34:32 of a command word (R47). -/
def opOf (w : CmdWord) : CmdOp := w.extractLsb' 32 3

/-- Bits 31:0 of a command word (R47). -/
def argOf (w : CmdWord) : CmdArg := w.extractLsb' 0 32

/-- The decoder: "A decoder reads `op` from bits 34:32. The table of rule R48 then fully determines the command" (R51). -/
def decode (w : CmdWord) : Except DecodeError Instr :=
  match opOf w with
  | 0#3 => .ok (.nop (argOf w))
  | 1#3 => .ok (.setOff (argOf w))
  | 2#3 => .ok (.setOn (argOf w))
  | 3#3 => .ok (.toggle (argOf w))
  | 4#3 => .ok (.onDelay (argOf w))
  | 5#3 => .ok (.get (argOf w))
  | op => .error (.reservedOpcode op)

/-- The opcode of a command (R48). -/
def Instr.op : Instr → CmdOp
  | .nop _ => 0#3
  | .setOff _ => 1#3
  | .setOn _ => 2#3
  | .toggle _ => 3#3
  | .onDelay _ => 4#3
  | .get _ => 5#3

/-- The argument field of a command (R47). -/
def Instr.arg : Instr → CmdArg
  | .nop a => a
  | .setOff a => a
  | .setOn a => a
  | .toggle a => a
  | .onDelay a => a
  | .get a => a

/-- The encoder: `op` in bits 34:32 above `arg` in bits 31:0 (R47). -/
def encode (i : Instr) : CmdWord := i.op ++ i.arg

/-- A row of spec/opcode_table.json: a word belongs to the row when its masked bits are the match. -/
structure OpcodeRow where
  mnemonic : String
  pattern : CmdWord
  mask : CmdWord
deriving DecidableEq, Repr

/-- spec/opcode_table.json, row by row. -/
def opcodeTable : List OpcodeRow :=
  [ { mnemonic := "NOP", pattern := 0x000000000#35, mask := 0x700000000#35 },
    { mnemonic := "SET_OFF", pattern := 0x100000000#35, mask := 0x700000000#35 },
    { mnemonic := "SET_ON", pattern := 0x200000000#35, mask := 0x700000000#35 },
    { mnemonic := "TOGGLE", pattern := 0x300000000#35, mask := 0x700000000#35 },
    { mnemonic := "ON_DELAY", pattern := 0x400000000#35, mask := 0x700000000#35 },
    { mnemonic := "GET", pattern := 0x500000000#35, mask := 0x700000000#35 } ]

/-- The mnemonic of a command's row in spec/opcode_table.json. -/
def Instr.mnemonic : Instr → String
  | .nop _ => "NOP"
  | .setOff _ => "SET_OFF"
  | .setOn _ => "SET_ON"
  | .toggle _ => "TOGGLE"
  | .onDelay _ => "ON_DELAY"
  | .get _ => "GET"

/-- Whether a command word belongs to a row. -/
def OpcodeRow.admits (row : OpcodeRow) (w : CmdWord) : Bool := w &&& row.mask == row.pattern

/-- The instruction of a row's bits `w`, of which the table gives the lowest `nbits`; every higher bit is 0. The port is
a parallel bus that carries the whole word in one cycle (R37), so the word is the number itself; a number of more than 35
bits is no command word (R38). -/
def decodeTableWord (nbits w : Nat) : Option Instr :=
  let v := w % 2 ^ nbits
  if v < 2 ^ 35 then (decode (BitVec.ofNat 35 v)).toOption else none

end Sys2Proof
end

