-- ==== Sys2Proof/Machine/Operands.lean ====
section
/-! DEFINITION. Operand forms and arithmetic: modular sums (spec/00_scope.md R10), the decided and derived parameters
(R8), the clamp of `ON_DELAY`'s argument (spec/42_ptt.md R82), zero extension, and the binary encodings of the
enumerations (spec/10_state.md R17). -/

namespace Sys2Proof.Machine

/-- `x +_W y` is `(x + y) mod 2^W` (R10). -/
def wrapAdd (w x y : Nat) : Nat := (x + y) % 2 ^ w

/-- `x -_W y` is `(x - y) mod 2^W`, the non-negative remainder (R10). -/
def wrapSub (w x y : Nat) : Nat := (x + (2 ^ w - y % 2 ^ w)) % 2 ^ w

/-- `MAX_DELAY_TICKS`, the largest delay `on_delay` can schedule: `2^W - 1` (R8, D14). -/
def maxDelayTicks (p : Params) : Nat := 2 ^ p.w - 1

/-- `TD_WIDTH`, the width of `tone_div`: `max(1, ceil(log2(TONE_HALF_CYCLES)))` (R8). -/
def tdWidth (p : Params) : Nat := max 1 (Nat.clog 2 p.toneHalfCycles)

/-- `clamp(a) = max(1, min(a, MAX_DELAY_TICKS))` for a 32-bit unsigned `a` (R82). `ON_DELAY` reads its argument as an
unsigned number of ticks, "not sign-extended, scaled or shifted" (R49). -/
def clampDelay (p : Params) (a : CmdArg) : Nat := max 1 (min a.toNat (maxDelayTicks p))

/-- `zext_32(d)` of a clamped tick count (R52); R8's `W <= 32` makes it fit. -/
def zext32 (d : Nat) : RspWord := BitVec.ofNat 32 d

/-- `{31'b0, on}` (R52). -/
def flagWord (on : Bool) : RspWord := 0#31 ++ BitVec.ofBool on

/-- The value latched into the TD_WIDTH-bit register `tone_div` (R11, R27; log entry 8). -/
def latchToneDiv (p : Params) (v : Nat) : Nat := v % 2 ^ tdWidth p

/-- The bit `chk_mode` holds (R13, R17). -/
def ChMode.bits : ChMode → BitVec 1
  | .idle => 0#1
  | .armedCompare => 1#1

/-- The bit `deb_state` holds (R13, R17). -/
def DebState.bits : DebState → BitVec 1
  | .idle => 0#1
  | .captured => 1#1

/-- The bit `deb_pol` holds (R13, R17). -/
def Polarity.bits : Polarity → BitVec 1
  | .release => 0#1
  | .press => 1#1

/-- The two bits `ptt_state` holds (R13, R17, R25). -/
def PttState.bits : PttState → BitVec 2
  | .off => 0b00#2
  | .on => 0b01#2
  | .pending => 0b10#2

end Sys2Proof.Machine
end

