-- ==== Sys2Proof/Machine/Ops.lean ====
section
/-! DEFINITION. The named operations on the registers: arm, disarm and fire of a channel (spec/40_shared_timer.md R57, R58,
R60), the two primitives on the PTT triple (spec/42_ptt.md R73 to R75), the reset values (spec/70_reset_and_hazards.md
R113), and reading and presenting the pins of a cycle. The block takes no exception and returns from none (R104, R105). -/

namespace Sys2Proof.Machine

/-- `Arm(k, delta)`: capture `cnt` and program a one-shot compare `delta` ticks later; an armed channel's old target is
replaced (R57). -/
def Channel.arm (p : Params) (cnt delta : Nat) : Channel :=
  { mode := .armedCompare, ccr := wrapAdd p.w cnt delta }

/-- `Disarm(k)`: the mode becomes `IDLE`, the target is held (R60). -/
def Channel.disarm (c : Channel) : Channel := { c with mode := .idle }

/-- `fire(k) := (chk_mode == ARMED_COMPARE) && (cnt == chk_ccr)` on start-of-cycle registers (R58). -/
def Channel.fires (c : Channel) (cnt : Nat) : Bool := c.mode == .armedCompare && cnt == c.ccr

/-- The working triple `P = (p, m1, c1)` of one cycle (R73): the PTT state and channel 1. -/
structure Triple where
  p : PttState
  ch1 : Channel
deriving DecidableEq, Repr

/-- The triple a cycle starts with: the start-of-cycle registers (R73). -/
def startTriple (r : Regs) : Triple := { p := r.pttState, ch1 := r.ch1 }

/-- `SetP(x)`: the state becomes `x` and channel 1 is disarmed, its target held (R74; C2). -/
def setP (x : PttState) (t : Triple) : Triple := { p := x, ch1 := t.ch1.disarm }

/-- The state a toggle leads to: `ON` to `OFF`, `OFF` and `PENDING` to `ON` (R75). -/
def toggled : PttState → PttState
  | .on => .off
  | .off => .on
  | .pending => .on

/-- `ToggleP` (R75): it cancels a delay as every `set` does. -/
def toggleP (t : Triple) : Triple := { p := toggled t.p, ch1 := t.ch1.disarm }

/-- `P := (PENDING, ARMED_COMPARE, cnt +_W d)`, which is `Arm(1, d)` (R83). -/
def pendP (p : Params) (cnt d : Nat) (_t : Triple) : Triple := { p := .pending, ch1 := Channel.arm p cnt d }

/-- The values a cycle with `rst = 1` latches; `line_state` takes the level of the button (R113). -/
def resetRegs (btn : Level) : Regs :=
  { cnt := 0
    ch0 := { mode := .idle, ccr := 0 }
    ch1 := { mode := .idle, ccr := 0 }
    debState := .idle
    debPol := .release
    edgeIfg := false
    lineState := btn
    pttState := .off
    rspValid := false
    rspData := 0#32
    toneDiv := 0
    toneOut := false }

/-- The pins of this cycle: the first scheduled ones, or free ones where none is scheduled (log entry 6). -/
def pins (s : State) : Inputs :=
  match s.inputs with
  | i :: _ => i
  | [] => Config.freeInputs s.cycle

/-- What stands on the command port in a cycle (R46). -/
inductive Presented where
  /-- `cmd_valid = 0`: `cmd_op` and `cmd_arg` are ignored. -/
  | none
  /-- A command of the opcode table. -/
  | command (i : Instr)
  /-- A reserved opcode (R50). -/
  | reserved (w : CmdWord)
deriving DecidableEq, Repr

/-- The command port read from the pins: nothing unless `cmd_valid = 1` (R46), else the decoded word (R51). -/
def presented (i : Inputs) : Presented :=
  if i.cmdValid then
    match decode i.word with
    | .ok c => .command c
    | .error _ => .reserved i.word
  else .none

/-- The pins with the command `w` on the port and `rst = 0`, so that it is accepted (R46). -/
def Inputs.withCommand (i : Inputs) (w : CmdWord) : Inputs :=
  { i with rst := false, cmdValid := true, cmdOp := opOf w, cmdArg := argOf w }

/-- Pins that bring nothing but a tick: the button as last accepted, no command (log entry 7). -/
def quietInputs (r : Regs) : Inputs :=
  { rst := false, btnIn := r.lineState, tick := true, cmdValid := false, cmdOp := 0#3, cmdArg := 0#32 }

/-- The state with the command word `w` on the port of its very next cycle. The button and the tick of that cycle stay as
scheduled; where nothing is scheduled they are those of `quietInputs` (log entry 7). -/
def presentWord (s : State) (w : CmdWord) : State :=
  match s.inputs with
  | i :: rest => { s with inputs := Inputs.withCommand i w :: rest }
  | [] => { s with inputs := [Inputs.withCommand (quietInputs s.regs) w] }

end Sys2Proof.Machine
end

