-- ==== Sys2Proof/Machine/Timer.lean ====
section
/-! DEFINITION. The shared timer and channel arbiter (spec/40_shared_timer.md): the counter, and the fixed ownership of
the two channels. Arm, disarm and fire are in Machine/Ops.lean.

Every phase below has the shape of the spec's clocked pseudocode (R11): it reads the start-of-cycle registers `r` and
writes into `a`, the values to be latched at the edge; what it does not write it leaves in `a`. -/

namespace Sys2Proof.Machine

/-- Phase 1 of R95: `cnt <- tick ? (cnt +_W 1) : cnt` (R55). -/
def timerPhase (p : Params) (r : Regs) (i : Inputs) (a : Regs) : Regs :=
  { a with cnt := if i.tick then wrapAdd p.w r.cnt 1 else r.cnt }

/-- `fire(0)`, the debounce engine's compare event: its expiry (R58, R62). -/
def fire0 (r : Regs) : Bool := r.ch0.fires r.cnt

/-- `fire(1)`, the PTT timing engine's compare event: the delay fire (R58, R62). -/
def fire1 (r : Regs) : Bool := r.ch1.fires r.cnt

end Sys2Proof.Machine
end

