-- ==== Sys2Proof/Machine/Debounce.lean ====
section
/-! DEFINITION. The debounce engine (spec/41_debounce.md): its four events and the toggle request. -/

namespace Sys2Proof.Machine

/-- The event of the engine in a cycle: exactly one of R66 to R69. -/
inductive DebEvent where
  /-- R66: accept a qualifying edge and open a window. -/
  | accept
  /-- R67: ignore an edge inside a window. -/
  | ignore
  /-- R68: window expiry; it beats an edge of its own cycle (R96). -/
  | expire
  /-- R69: no debounce event. -/
  | quiet
deriving DecidableEq, Repr

/-- The conditions of R66 to R69. -/
def debounceEvent (r : Regs) (i : Inputs) : DebEvent :=
  match r.debState with
  | .idle => if edge r i then .accept else .quiet
  | .captured => if fire0 r then .expire else if edge r i then .ignore else .quiet

/-- `deb_toggle`: an expiry requests a toggle exactly when a press opened the window; the line is not read again (R68,
R70). -/
def debToggle (r : Regs) (i : Inputs) : Bool := debounceEvent r i == .expire && r.debPol == .press

/-- Phase 2 of R95: the engine's registers and channel 0 (R66 to R69). -/
def debouncePhase (p : Params) (r : Regs) (i : Inputs) (a : Regs) : Regs :=
  match debounceEvent r i with
  | .accept =>
    { a with
      debState := .captured
      debPol := edgePolarity p i
      lineState := i.btnIn
      edgeIfg := false
      ch0 := Channel.arm p r.cnt p.debounceTicks }
  | .expire =>
    { a with
      debState := .idle
      ch0 := r.ch0.disarm
      edgeIfg := false
      lineState := i.btnIn }
  | .ignore => { a with edgeIfg := true }
  | .quiet => a

end Sys2Proof.Machine
end

