-- ==== Sys2Proof/Machine/PttEngine.lean ====
section
/-! DEFINITION. The PTT timing engine's internal events and its registers (spec/42_ptt.md R73, R76, R77): the first two
writers of a cycle's triple. The third, the host command, is Machine/Commands.lean. -/

namespace Sys2Proof.Machine

/-- Writer 1, the delay fire: channel 1's compare calls `set(ON)` (R76). -/
def delayFire (r : Regs) (t : Triple) : Triple := if fire1 r then setP .on t else t

/-- Writer 2, the debounce toggle (R77). -/
def debounceToggle (r : Regs) (i : Inputs) (t : Triple) : Triple := if debToggle r i then toggleP t else t

/-- The triple the host command meets: delay fire, then debounce toggle (R96). -/
def eventTriple (r : Regs) (i : Inputs) : Triple := debounceToggle r i (delayFire r (startTriple r))

/-- The end of phase 3 of R95: `ptt_state <- p`, `ch1_mode <- m1`, `ch1_ccr <- c1` (R73). -/
def pttPhase (t : Triple) (a : Regs) : Regs := { a with pttState := t.p, ch1 := t.ch1 }

/-- Phase 4 of R95, the response register: `ON_DELAY` and `GET` answer, every other cycle clears `rsp_valid` and holds
`rsp_data` (R52, D27). -/
def responsePhase (answer : Option RspWord) (a : Regs) : Regs :=
  { a with
    rspValid := rspValidFlag answer
    rspData := answer.getD a.rspData }

end Sys2Proof.Machine
end

