-- ==== Sys2Proof/Machine/Tone.lean ====
section
/-! DEFINITION. The tone oscillator and its gating (spec/43_tone.md). -/

namespace Sys2Proof.Machine

/-- Phase 5 of R95. It is gated by the state the cycle ends in: stopped or stop (R91), start (R92), or free-running
(R93). -/
def tonePhase (p : Params) (r : Regs) (pFinal : PttState) (a : Regs) : Regs :=
  if pFinal ≠ .on then { a with toneDiv := 0, toneOut := false }
  else if r.pttState ≠ .on then { a with toneDiv := 0, toneOut := true }
  else if r.toneDiv = p.toneHalfCycles - 1 then { a with toneDiv := 0, toneOut := !r.toneOut }
  else { a with toneDiv := latchToneDiv p (r.toneDiv + 1), toneOut := r.toneOut }

end Sys2Proof.Machine
end

