-- ==== Sys2Proof/WellFormed.lean ====
section
/-! DEFINITION. Which parameters make an instance of the block (spec/00_scope.md R8) and which script lines the assembler
accepts (spec/30_encoding.md R53, R54). An `Instr` needs no check: its fields have their widths in their types. -/

namespace Sys2Proof

/-- The constraints of R8's table. "A configuration that breaks a constraint in the table is not a valid instance. A
model refuses it": Machine/Cycle.lean. `BTN_ACTIVE_LEVEL` is 0 or 1 by its type. -/
def Params.valid (p : Params) : Bool :=
  decide (2 ≤ p.w) && decide (p.w ≤ 32) && decide (0 < p.fTick) &&
    decide (1 ≤ p.debounceTicks) && decide (p.debounceTicks ≤ 2 ^ p.w - 1) &&
    decide (1 ≤ p.toneHalfCycles) && decide (0 < p.fClk)

/-- R53: `ON_DELAY` requires its ticks, which must fit in 32 bits, and no other mnemonic accepts any. R54: `ON_DELAY_S`
requires `seconds > 0`. -/
def ScriptLine.wellFormed : ScriptLine → Bool
  | .command .onDelay (some ticks) => decide (ticks < 2 ^ 32)
  | .command .onDelay none => false
  | .command .nop ticks => ticks.isNone
  | .command .setOff ticks => ticks.isNone
  | .command .setOn ticks => ticks.isNone
  | .command .toggle ticks => ticks.isNone
  | .command .get ticks => ticks.isNone
  | .setState _ => true
  | .onDelaySeconds seconds => decide (0 < seconds)
  | .wait _ => true

end Sys2Proof
end

