-- ==== Sys2Proof/Machine/Cycle.lean ====
section
/-! DEFINITION. The clock-cycle step (spec/44_cycle_step.md R95), for a host command given by what it does to the PTT
triple and what it answers. -/

namespace Sys2Proof.Machine

/-- A host command's part of a cycle: the third writer of the triple (R96), and the answer it puts into the response
register, computed from the state the cycle ends in (R52). -/
structure HostCommand where
  write : Triple → Triple
  answer : PttState → Option RspWord

/-- No answer: `rsp_valid <- 0` (R52). -/
def noAnswer (_p : PttState) : Option RspWord := none

/-- The triple a cycle ends with: the host command writes last (R96). -/
def finalTriple (r : Regs) (i : Inputs) (c : HostCommand) : Triple := c.write (eventTriple r i)

/-- The registers latched at the edge that ends a cycle with `rst = 0`: the five phases of R95. Every phase reads the
start-of-cycle registers `r` (R11). -/
def cycleRegs (p : Params) (r : Regs) (i : Inputs) (c : HostCommand) : Regs :=
  let t := finalTriple r i c
  tonePhase p r t.p
    (responsePhase (c.answer t.p)
      (pttPhase t
        (debouncePhase p r i
          (timerPhase p r i r))))

/-- The registers latched at the edge that ends a cycle. With `rst = 1` the command port and the tick are ignored (R46,
R113). -/
def nextRegs (p : Params) (r : Regs) (i : Inputs) (c : HostCommand) : Regs :=
  if i.rst then resetRegs i.btnIn else cycleRegs p r i c

/-- The machine after the edge: new registers, the same instance, and the next cycle's pins at the front. -/
def advance (s : State) (r : Regs) : State :=
  { s with regs := r, inputs := s.inputs.tail, cycle := s.cycle + 1 }

/-- One clock cycle with a host command on the port. A configuration that breaks a constraint of R8 is refused. -/
def runCycle (s : State) (c : HostCommand) : Host.Outcome State Fault Refusal :=
  if s.params.valid then .next (advance s (nextRegs s.params s.regs (pins s) c))
  else .refused .invalidParameters

end Sys2Proof.Machine
end

