-- ==== Sys2Proof/Machine/Commands.lean ====
section
/-! DEFINITION. The meanings of the six host commands (spec/42_ptt.md R78 to R84), of a reserved opcode (R85) and of a
cycle without a command (spec/30_encoding.md R46). Each is the whole cycle of R95 with that command as its third writer;
button and tick are the cycle's pins, and a cycle with `rst = 1` loses the command (R113, R114; log entry 11). -/

namespace Sys2Proof.Machine

/-- `NOP` (R78): the triple is unchanged. `arg` is ignored (R49). -/
def execNop (_arg : CmdArg) (s : State) : Host.Outcome State Fault Refusal :=
  runCycle s { write := id, answer := noAnswer }

/-- `SET_OFF` (R79): `P := SetP(OFF)(P)`. `arg` is ignored (R49). -/
def execSetOff (_arg : CmdArg) (s : State) : Host.Outcome State Fault Refusal :=
  runCycle s { write := setP .off, answer := noAnswer }

/-- `SET_ON` (R80): `P := SetP(ON)(P)`. `arg` is ignored (R49). -/
def execSetOn (_arg : CmdArg) (s : State) : Host.Outcome State Fault Refusal :=
  runCycle s { write := setP .on, answer := noAnswer }

/-- `TOGGLE` (R81): `P := ToggleP(P)`. `arg` is ignored (R49). -/
def execToggle (_arg : CmdArg) (s : State) : Host.Outcome State Fault Refusal :=
  runCycle s { write := toggleP, answer := noAnswer }

/-- `ON_DELAY` (R83): `d := clamp(arg)`, `P := (PENDING, ARMED_COMPARE, cnt +_W d)`, and the answer is `zext_32(d)`. -/
def execOnDelay (arg : CmdArg) (s : State) : Host.Outcome State Fault Refusal :=
  let d := clampDelay s.params arg
  runCycle s { write := pendP s.params s.regs.cnt d, answer := fun _ => some (zext32 d) }

/-- `GET` (R84): the triple is unchanged and the answer is `{31'b0, (p_final == ON)}`. `arg` is ignored (R49). -/
def execGet (_arg : CmdArg) (s : State) : Host.Outcome State Fault Refusal :=
  runCycle s { write := id, answer := fun p => some (flagWord (p == .on)) }

/-- A cycle with `cmd_valid = 0`: no command takes effect (R46, phases 3 and 4 of R95 with `NONE`). -/
def noCommandCycle (s : State) : Host.Outcome State Fault Refusal :=
  runCycle s { write := id, answer := noAnswer }

/-- A reserved opcode (R85): the triple is unchanged and `rsp_valid <- 0`. It raises nothing (R50; log entry 10). -/
def reservedCycle (_w : CmdWord) (s : State) : Host.Outcome State Fault Refusal :=
  runCycle s { write := id, answer := noAnswer }

end Sys2Proof.Machine
end

