-- ==== Sys2Proof/Machine/Dispatch.lean ====
section
/-! DEFINITION. One arm per command of the opcode table, each a direct call of its meaning. -/

namespace Sys2Proof.Machine

/-- The cycle in which the command `i` stands on the command port (spec/44_cycle_step.md R95). -/
def exec (i : Instr) (s : State) : Host.Outcome State Fault Refusal :=
  match i with
  | .nop arg => Sys2Proof.Machine.execNop arg s
  | .setOff arg => Sys2Proof.Machine.execSetOff arg s
  | .setOn arg => Sys2Proof.Machine.execSetOn arg s
  | .toggle arg => Sys2Proof.Machine.execToggle arg s
  | .onDelay arg => Sys2Proof.Machine.execOnDelay arg s
  | .get arg => Sys2Proof.Machine.execGet arg s

end Sys2Proof.Machine
end

