-- ==== Sys2Proof/Machine/Step.lean ====
section
/-! DEFINITION. One clock cycle of the machine: what stands on the command port is run. -/

namespace Sys2Proof.Machine

/-- One application per clock cycle (spec/44_cycle_step.md R95). The block fetches nothing (R31): the command is what the
host presents on the port in this cycle (R46). -/
def step (s : State) : Host.Outcome State Fault Refusal :=
  match presented (pins s) with
  | .none => noCommandCycle s
  | .reserved w => reservedCycle w s
  | .command i => exec i s

/-- The state with the command word of the lowest `nbits` bits of `w` on the command port of its next cycle, so that
`step` runs exactly it (log entry 7). The port is 35 bits wide; it takes the low 35. -/
def State.withFetchWord (s : State) (nbits w : Nat) : State := presentWord s (BitVec.ofNat 35 (w % 2 ^ nbits))

end Sys2Proof.Machine
end

