-- ==== Sys2Proof/Machine/Driver.lean ====
section
/-! DEFINITION. The host's side of the seconds interface (spec/42_ptt.md R86) and what the parameters mean in seconds and
hertz (R8, R94). None of it is a register or a step of the block (log entry 13). -/

namespace Sys2Proof.Machine

/-- `floor(x + 1/2)`: round to nearest, ties up, in exact rational arithmetic (R86). -/
def roundHalfUp (x : Rat) : Int := (x + 1 / 2).floor

/-- R86 steps 1 and 2: a request of `s <= 0` seconds is rejected (also R117 H1); else
`min(floor(s * F_TICK + 1/2), 2^32 - 1)`. -/
def secToTicks (p : Params) (s : Rat) : Option Nat :=
  if 0 < s then some (min (roundHalfUp (s * p.fTick)).toNat (2 ^ 32 - 1)) else none

/-- R86 step 3: the command the host issues for a request in seconds. -/
def delayCommand (p : Params) (s : Rat) : Option Instr :=
  (secToTicks p s).map fun req => .onDelay (BitVec.ofNat 32 req)

/-- R86 step 4: `actual_seconds = rsp_data / F_TICK`. -/
def actualSeconds (p : Params) (rsp : RspWord) : Rat := (rsp.toNat : Rat) / p.fTick

/-- `F_CLK / (2 * TONE_HALF_CYCLES)` hertz (R94). -/
def toneFrequency (p : Params) : Rat := p.fClk / (2 * (p.toneHalfCycles : Rat))

/-- The suggested default of `DEBOUNCE_TICKS`, `floor(0.1 * F_TICK + 1/2)` (R8, D11). -/
def suggestedDebounceTicks (fTick : Rat) : Int := roundHalfUp (1 / 10 * fTick)

end Sys2Proof.Machine
end

