-- ==== Sys2Proof/Machine/Assembler.lean ====
section
/-! DEFINITION. The assembler of command scripts (spec/30_encoding.md R53) with its pseudo-instructions (R54): text to
lines, lines to the commands of successive cycles. Text is a list of characters. What R53 leaves open of the text is log
entry 14 (DESIGN CHOICE). -/

namespace Sys2Proof.Machine

/-- Why a line does not assemble. -/
inductive AsmError where
  /-- The line's words are no form of R53 or R54. -/
  | unknownLine
  /-- The line has a form of R53 or R54 but breaks a requirement: ticks missing, unwanted or over 32 bits, or seconds not
  above 0. -/
  | illFormed
deriving DecidableEq, Repr

/-- A comment runs from `;` to the end of the line (R53). -/
def stripComment : List Char → List Char
  | [] => []
  | c :: cs => if c = ';' then [] else c :: stripComment cs

/-- Space and tab separate the words of a line. -/
def isBlank (c : Char) : Bool := c == ' ' || c == '\t'

/-- The words of a line; `cur` is the word being read, last character first. -/
def splitWords : List Char → List Char → List (List Char)
  | [], [] => []
  | [], cur => [cur.reverse]
  | c :: cs, cur =>
    if isBlank c then
      match cur with
      | [] => splitWords cs []
      | cur => cur.reverse :: splitWords cs []
    else splitWords cs (c :: cur)

/-- The value of a decimal or hexadecimal digit. -/
def digitValue (base : Nat) (c : Char) : Option Nat :=
  let n := c.toNat
  let v :=
    if 48 ≤ n ∧ n ≤ 57 then n - 48
    else if 65 ≤ n ∧ n ≤ 70 then n - 55
    else if 97 ≤ n ∧ n ≤ 102 then n - 87
    else base
  if v < base then some v else none

/-- The value of a run of digits, most significant first, on top of `acc`. -/
def digitsValue (base : Nat) : List Char → Nat → Option Nat
  | [], acc => some acc
  | c :: cs, acc =>
    match digitValue base c with
    | some v => digitsValue base cs (acc * base + v)
    | none => none

/-- "an unsigned decimal number, or hexadecimal with a `0x` prefix" (R53); at least one digit. -/
def parseNumber : List Char → Option Nat
  | [] => none
  | '0' :: 'x' :: [] => none
  | '0' :: 'x' :: ds => digitsValue 16 ds 0
  | ds => digitsValue 10 ds 0

/-- The digits before a decimal point and those after it, if there is a point. -/
def splitPoint : List Char → List Char × Option (List Char)
  | [] => ([], none)
  | c :: cs =>
    if c = '.' then ([], some cs)
    else ((c :: (splitPoint cs).1), (splitPoint cs).2)

/-- A seconds literal: decimal digits, then optionally a point and more digits (log entry 14). -/
def parseSeconds (cs : List Char) : Option Rat :=
  match splitPoint cs with
  | ([], _) => none
  | (_, some []) => none
  | (whole, frac) =>
    let digits := frac.getD []
    (digitsValue 10 (whole ++ digits) 0).map fun n => (n : Rat) / (10 ^ digits.length : Nat)

/-- The spelling of a mnemonic (R53, spec/opcode_table.json). -/
def spelling : Mnemonic → List Char
  | .nop => ['N', 'O', 'P']
  | .setOff => ['S', 'E', 'T', '_', 'O', 'F', 'F']
  | .setOn => ['S', 'E', 'T', '_', 'O', 'N']
  | .toggle => ['T', 'O', 'G', 'G', 'L', 'E']
  | .onDelay => ['O', 'N', '_', 'D', 'E', 'L', 'A', 'Y']
  | .get => ['G', 'E', 'T']

/-- The mnemonic a word spells. -/
def mnemonicOf (cs : List Char) : Option Mnemonic :=
  [Mnemonic.nop, .setOff, .setOn, .toggle, .onDelay, .get].find? fun m => spelling m == cs

/-- The line that one or two words stand for (R53, R54). -/
def lineOfWords : List (List Char) → Except AsmError ScriptLine
  | [word] =>
    match mnemonicOf word with
    | some m => .ok (.command m none)
    | none => .error .unknownLine
  | [word, operand] =>
    match mnemonicOf word with
    | some m =>
      match parseNumber operand with
      | some n => .ok (.command m (some n))
      | none => .error .unknownLine
    | none =>
      if word = ['S', 'E', 'T'] then
        if operand = ['O', 'N'] then .ok (.setState true)
        else if operand = ['O', 'F', 'F'] then .ok (.setState false)
        else .error .unknownLine
      else if word = ['O', 'N', '_', 'D', 'E', 'L', 'A', 'Y', '_', 'S'] then
        match parseSeconds operand with
        | some q => .ok (.onDelaySeconds q)
        | none => .error .unknownLine
      else if word = ['W', 'A', 'I', 'T'] then
        match parseNumber operand with
        | some n => .ok (.wait n)
        | none => .error .unknownLine
      else .error .unknownLine
  | _ => .error .unknownLine

/-- A line of text; `none` for a line that holds only blanks and a comment. -/
def parseLine (cs : List Char) : Except AsmError (Option ScriptLine) :=
  match splitWords (stripComment cs) [] with
  | [] => .ok none
  | ws => (lineOfWords ws).map some

/-- The command of a mnemonic with its argument. "The assembler encodes a line as `{op, arg}`, with `arg = 0` for
commands without an operand" (R53). -/
def commandOf (m : Mnemonic) (arg : CmdArg) : Instr :=
  match m with
  | .nop => .nop arg
  | .setOff => .setOff arg
  | .setOn => .setOn arg
  | .toggle => .toggle arg
  | .onDelay => .onDelay arg
  | .get => .get arg

/-- The commands of the successive cycles a line stands for; `none` is a cycle with `cmd_valid = 0` (R53, R54). -/
def expandLine (p : Params) (l : ScriptLine) : Except AsmError (List (Option Instr)) :=
  if l.wellFormed then
    match l with
    | .command m ticks => .ok [some (commandOf m (BitVec.ofNat 32 (ticks.getD 0)))]
    | .setState true => .ok [some (.setOn 0#32)]
    | .setState false => .ok [some (.setOff 0#32)]
    | .onDelaySeconds q =>
      match delayCommand p q with
      | some i => .ok [some i]
      | none => .error .illFormed
    | .wait n => .ok (List.replicate n none)
  else .error .illFormed

/-- A script, line by line, as the commands of its cycles. -/
def assemble (p : Params) : List (List Char) → Except AsmError (List (Option Instr))
  | [] => .ok []
  | cs :: rest =>
    match parseLine cs with
    | .error e => .error e
    | .ok none => assemble p rest
    | .ok (some l) =>
      match expandLine p l, assemble p rest with
      | .ok now, .ok later => .ok (now ++ later)
      | .error e, _ => .error e
      | _, .error e => .error e

/-- The pins of one row of a program table (R53): `rst`, `btn_in`, `tick` and the command, or none for `cmd_valid = 0`. -/
def rowInputs (rst btn tick : Level) (c : Option Instr) : Inputs :=
  match c with
  | some i =>
    { rst := rst, btnIn := btn, tick := tick, cmdValid := true, cmdOp := opOf (encode i), cmdArg := argOf (encode i) }
  | none => { rst := rst, btnIn := btn, tick := tick, cmdValid := false, cmdOp := 0#3, cmdArg := 0#32 }

end Sys2Proof.Machine
end

