-- ==== Sys2Proof/Machine/Outputs.lean ====
section
/-! DEFINITION. The derived signals (spec/10_state.md R28) and the output ports, which are functions of the start-of-cycle
registers alone (spec/44_cycle_step.md R97). -/

namespace Sys2Proof.Machine

/-- `ptt_out := (ptt_state == ON)`, the transmit-enable line (R28, D17). -/
def pttOut (r : Regs) : Level := r.pttState == .on

/-- `tone_running := (ptt_state == ON)` (R28, R90). -/
def toneRunning (r : Regs) : Bool := r.pttState == .on

/-- `edge_ie := (deb_state == IDLE)`, the source's edge-interrupt enable (R28, R102). -/
def edgeIe (r : Regs) : Bool := r.debState == .idle

/-- `deb_busy := (deb_state == CAPTURED)` (R28). -/
def debBusy (r : Regs) : Bool := r.debState == .captured

/-- `ptt_pending := (ptt_state == PENDING)` (R28). -/
def pttPending (r : Regs) : Bool := r.pttState == .pending

/-- `delay_remaining := ch1_ccr -_W cnt`, meaningful only while `PENDING` (R28, C6). -/
def delayRemaining (p : Params) (r : Regs) : Nat := wrapSub p.w r.ch1.ccr r.cnt

/-- `window_remaining := ch0_ccr -_W cnt`, meaningful only while `CAPTURED` (R28). -/
def windowRemaining (p : Params) (r : Regs) : Nat := wrapSub p.w r.ch0.ccr r.cnt

/-- The output ports of R45. -/
structure Outputs where
  pttOut : Level
  toneOut : Level
  rspValid : Level
  rspData : RspWord
deriving DecidableEq, Repr

/-- The outputs during a cycle whose start-of-cycle registers are `r` (R97): no input reaches an output in its own
cycle, and reading one has no side effect (R39, R88). -/
def outputs (r : Regs) : Outputs :=
  { pttOut := pttOut r, toneOut := r.toneOut, rspValid := r.rspValid, rspData := r.rspData }

end Sys2Proof.Machine
end

