-- ==== Sys2Proof/Safety.lean ====
section
/-! DEFINITION. What a good state is, in the spec's own terms: the invariants INV1 to INV8 of spec/10_state.md R29 and the
widths of R17; and the words that claims about cycles and runs use. -/

namespace Sys2Proof.Machine

/-- INV1: a window is open if and only if channel 0 is armed. -/
abbrev Inv1 (r : Regs) : Prop := r.debState = .captured ↔ r.ch0.mode = .armedCompare

/-- INV2: `PENDING` if and only if channel 1 is armed. -/
abbrev Inv2 (r : Regs) : Prop := r.pttState = .pending ↔ r.ch1.mode = .armedCompare

/-- INV3: the pending-edge flag is set only inside a window. -/
abbrev Inv3 (r : Regs) : Prop := r.edgeIfg = true → r.debState = .captured

/-- INV4: the tone is stopped and low unless the state is `ON`. -/
abbrev Inv4 (r : Regs) : Prop := r.pttState ≠ .on → r.toneOut = false ∧ r.toneDiv = 0

/-- INV5: the divider stays below the half-period. -/
abbrev Inv5 (p : Params) (r : Regs) : Prop := r.toneDiv < p.toneHalfCycles

/-- INV6: `ptt_state` never holds 2'b11. -/
abbrev Inv6 (r : Regs) : Prop := r.pttState.bits ≠ 0b11#2

/-- INV7: an open window has at most `DEBOUNCE_TICKS` ticks left. -/
abbrev Inv7 (p : Params) (r : Regs) : Prop := r.debState = .captured → windowRemaining p r ≤ p.debounceTicks

/-- INV8: the transmit line and the tone generator follow `ON`. -/
abbrev Inv8 (r : Regs) : Prop := (r.pttState = .on ↔ pttOut r = true) ∧ (r.pttState = .on ↔ toneRunning r = true)

/-- Every register fits its width (R17). -/
abbrev FitsWidths (p : Params) (r : Regs) : Prop :=
  r.cnt < 2 ^ p.w ∧ r.ch0.ccr < 2 ^ p.w ∧ r.ch1.ccr < 2 ^ p.w ∧ r.toneDiv < 2 ^ tdWidth p

/-- A good state: a valid instance (R8) whose registers fit their widths (R17) and meet every invariant of R29. -/
abbrev Inv (s : State) : Prop :=
  s.params.valid = true ∧ FitsWidths s.params s.regs ∧ Inv1 s.regs ∧ Inv2 s.regs ∧ Inv3 s.regs ∧ Inv4 s.regs ∧
    Inv5 s.params s.regs ∧ Inv6 s.regs ∧ Inv7 s.params s.regs ∧ Inv8 s.regs

/-- A cycle the rules of 40 to 44 speak of: a valid instance (R8) in a cycle with `rst = 0`. -/
abbrev Live (s : State) : Prop := s.params.valid = true ∧ (pins s).rst = false

/-- A cycle's pins with `rst = 0` and no command on the port. -/
abbrev NoCommand (i : Inputs) : Prop := i.rst = false ∧ i.cmdValid = false

/-- How many of some cycles are ticks (R16: "a cycle in which the `tick` input is 1"). -/
def ticksIn : List Inputs → Nat
  | [] => 0
  | i :: is => (if i.tick then 1 else 0) + ticksIn is

/-- The PTT state that the host command of a cycle meets: after the delay fire and then the debounce toggle (R96). -/
def eventState (r : Regs) (i : Inputs) : PttState :=
  let fired := if fire1 r then .on else r.pttState
  if debToggle r i then toggled fired else fired

/-- The divider and the output of the tone after a cycle that ends in the state `x`, as R91 to R93 give them. -/
def toneAfter (p : Params) (r : Regs) (x : PttState) : Nat × Level :=
  if x ≠ .on then (0, false)
  else if r.pttState ≠ .on then (0, true)
  else if r.toneDiv = p.toneHalfCycles - 1 then (0, !r.toneOut)
  else (r.toneDiv + 1, r.toneOut)

/-- Two register sets agree on the shared counter, channel 0 and the debounce engine: all that the PTT timing engine, its
commands and the tone generator never write (R62). -/
abbrev SameTimerAndDebounce (r q : Regs) : Prop :=
  r.cnt = q.cnt ∧ r.ch0 = q.ch0 ∧ r.debState = q.debState ∧ r.debPol = q.debPol ∧ r.edgeIfg = q.edgeIfg ∧
    r.lineState = q.lineState

/-- `n` cycles of the machine. -/
abbrev runCycles (n : Nat) (s : State) : Host.Outcome State Fault Refusal := Sys2Proof.core.run n s

end Sys2Proof.Machine
end

