-- ==== Sys2Proof/Certificates/Slice0/Obligations.lean ====
section
/-! DEFINITION. What the machine is claimed to do: one statement per obligation of OBLIGATIONS.json, which names for each
the rules of spec/ it formalises. No statement rests on the parameters or the inputs of `State.reset`, but
`ResetStateIsGood`, which says so. -/

open Sys2Proof Sys2Proof.Machine

/-! ### Encoding -/

/-- Decoding and encoding are inverse to each other, and the words that decode to no command are those with a reserved
opcode (R47, R48, R50, R51). -/
def Obligations.DecodeAndEncodeAgree : Prop :=
  ∀ w : CmdWord,
    (∀ i : Instr, decode w = .ok i ↔ encode i = w) ∧
    (∀ op : CmdOp, decode w = .error (.reservedOpcode op) ↔ opOf w = op ∧ (op = 6#3 ∨ op = 7#3))

/-- A word belongs to a row of the opcode table exactly when it decodes to a command of that mnemonic (R48). -/
def Obligations.OpcodeRowsDecodeToTheirMnemonic : Prop :=
  ∀ row ∈ opcodeTable, ∀ w : CmdWord,
    row.admits w = true ↔ ∃ i, decode w = .ok i ∧ i.mnemonic = row.mnemonic

/-- Words written out in spec/30_encoding.md and spec/95_test_vectors.md decode to the commands they stand for. -/
def Obligations.WrittenWordsDecode : Prop :=
  decode 0x00000DEAD#35 = .ok (.nop 0xDEAD#32) ∧
  decode 0x100000000#35 = .ok (.setOff 0#32) ∧
  decode 0x200000000#35 = .ok (.setOn 0#32) ∧
  decode 0x300000000#35 = .ok (.toggle 0#32) ∧
  decode 0x400000005#35 = .ok (.onDelay 5#32) ∧
  decode 0x5FFFFFFFF#35 = .ok (.get 0xFFFFFFFF#32) ∧
  decode 0x60000007B#35 = .error (.reservedOpcode 6#3)

/-- `arg` is ignored by every command but `ON_DELAY` (R49). -/
def Obligations.ArgumentIgnoredButByOnDelay : Prop :=
  ∀ (a b : CmdArg) (s : State),
    exec (.nop a) s = exec (.nop b) s ∧ exec (.setOff a) s = exec (.setOff b) s ∧
    exec (.setOn a) s = exec (.setOn b) s ∧ exec (.toggle a) s = exec (.toggle b) s ∧
    exec (.get a) s = exec (.get b) s

/-! ### The step -/

/-- A step runs the command on the port: `exec` of it, at the same state (R46, R51). -/
def Obligations.StepRunsThePresentedCommand : Prop :=
  ∀ (s : State) (i : Instr), (pins s).cmdValid = true → decode (pins s).word = .ok i → step s = exec i s

/-- What a step does beside the registers: the instance stays, the scheduled pins move up by one cycle. -/
def Obligations.StepKeepsInstanceAndTakesPins : Prop :=
  ∀ s t : State, step s = .next t → t.params = s.params ∧ t.inputs = s.inputs.tail ∧ t.cycle = s.cycle + 1

/-- No command and no input combination stops a valid instance (R87, R98, R100). -/
def Obligations.ValidInstanceNeverStops : Prop :=
  ∀ s : State, s.params.valid = true →
    (∃ t, step s = .next t) ∧ ∀ i : Instr, ∃ t, exec i s = .next t

/-- A configuration that breaks a constraint of R8 is refused. That it is refused is R8's; R8 does not say at what moment.
That the refusal comes in every cycle, in each `step` and each `exec`, a reset cycle included, is the model's choice (log
entry 4, DEDUCED). -/
def Obligations.InvalidParametersRefused : Prop :=
  ∀ s : State, s.params.valid = false →
    step s = .refused .invalidParameters ∧ ∀ i : Instr, exec i s = .refused .invalidParameters

/-- R46: in a cycle with `cmd_valid = 0` the other two pins of the command port are ignored. -/
def Obligations.IdlePortPinsIgnored : Prop :=
  ∀ (s : State) (i : Inputs) (is : List Inputs) (o : CmdOp) (a : CmdArg), i.cmdValid = false →
    step { s with inputs := i :: is } = step { s with inputs := { i with cmdOp := o, cmdArg := a } :: is }

/-- R113: what a reset cycle latches, whatever stands on the other pins. -/
def Obligations.ResetCycleLatchesResetValues : Prop :=
  ∀ s : State, s.params.valid = true → (pins s).rst = true → ∃ t, step s = .next t ∧
    t.regs =
      { cnt := 0, ch0 := { mode := .idle, ccr := 0 }, ch1 := { mode := .idle, ccr := 0 },
        debState := .idle, debPol := .release, edgeIfg := false, lineState := (pins s).btnIn,
        pttState := .off, rspValid := false, rspData := 0#32, toneDiv := 0, toneOut := false }

/-- A command presented in a reset cycle is lost (R46, R114): every command's cycle is the reset cycle. That `exec` of a
command is, at such pins, the whole reset cycle is log entry 11 (DEDUCED). -/
def Obligations.CommandInResetCycleIsLost : Prop :=
  ∀ (s : State) (i : Instr), s.params.valid = true → (pins s).rst = true → exec i s = step s

/-- R114: with the button held as in the reset cycle and no command, the machine stays as reset left it, but for the
counter. -/
def Obligations.ButtonHeldThroughResetIsQuiet : Prop :=
  ∀ (s : State) (i₀ : Inputs) (is rest : List Inputs), s.params.valid = true →
    s.inputs = i₀ :: (is ++ rest) → i₀.rst = true →
    (∀ x ∈ is, NoCommand x ∧ x.btnIn = i₀.btnIn) →
    ∃ t, runCycles (1 + is.length) s = .next t ∧
      t.regs =
        { cnt := ticksIn is % 2 ^ s.params.w, ch0 := { mode := .idle, ccr := 0 }, ch1 := { mode := .idle, ccr := 0 },
          debState := .idle, debPol := .release, edgeIfg := false, lineState := i₀.btnIn,
          pttState := .off, rspValid := false, rspData := 0#32, toneDiv := 0, toneOut := false }

/-! ### Host commands -/

/-- R78: `NOP` leaves the triple to the events of the cycle and clears `rsp_valid`; it is a cycle without a command. -/
def Obligations.NopIsACycleWithoutCommand : Prop :=
  ∀ (s : State) (a : CmdArg), Live s → ∃ t, exec (.nop a) s = .next t ∧
    t.regs.pttState = eventState s.regs (pins s) ∧
    t.regs.ch1 =
      (if fire1 s.regs ∨ debToggle s.regs (pins s) then { mode := .idle, ccr := s.regs.ch1.ccr } else s.regs.ch1) ∧
    t.regs.rspValid = false ∧ t.regs.rspData = s.regs.rspData ∧
    ((pins s).cmdValid = false → step s = .next t)

/-- R79: `SET_OFF`. It differs from `NOP`'s cycle in the PTT state, channel 1 and the tone alone. -/
def Obligations.SetOffResult : Prop :=
  ∀ (s : State) (a : CmdArg), Live s → ∃ n, exec (.nop a) s = .next n ∧
    exec (.setOff a) s = .next { n with regs := { n.regs with
      pttState := .off
      ch1 := { mode := .idle, ccr := s.regs.ch1.ccr }
      toneDiv := 0
      toneOut := false } }

/-- R80: `SET_ON`. It differs from `NOP`'s cycle in the PTT state, channel 1 and the tone alone. -/
def Obligations.SetOnResult : Prop :=
  ∀ (s : State) (a : CmdArg), Live s → Inv5 s.params s.regs → ∃ n, exec (.nop a) s = .next n ∧
    exec (.setOn a) s = .next { n with regs := { n.regs with
      pttState := .on
      ch1 := { mode := .idle, ccr := s.regs.ch1.ccr }
      toneDiv := (toneAfter s.params s.regs .on).1
      toneOut := (toneAfter s.params s.regs .on).2 } }

/-- R80, R89 Q3: `SET_ON` while `ON`, with no event in the cycle, is no different from `NOP`: the tone keeps its
phase. -/
def Obligations.SetOnWhileOnIsNop : Prop :=
  ∀ (s : State) (a b : CmdArg), Live s → Inv2 s.regs → s.regs.pttState = .on → debToggle s.regs (pins s) = false →
    ∃ t, exec (.setOn a) s = .next t ∧ exec (.nop b) s = .next t

/-- R81, R75: `TOGGLE` acts on the state that the events of the cycle left. The tone is R91's or R92's, or, where the
cycle starts and ends in `ON`, a wave that runs on. That last case is the cycle in which a debounce toggle and this `TOGGLE`
cancel: there the wave is not restarted by the model's choice (log entry 12, DEDUCED: the pseudocode of R93 and R95, against
one reading of R93's last corner case). -/
def Obligations.ToggleResult : Prop :=
  ∀ (s : State) (a : CmdArg), Live s → Inv5 s.params s.regs → ∃ n, exec (.nop a) s = .next n ∧
    exec (.toggle a) s = .next { n with regs := { n.regs with
      pttState := if eventState s.regs (pins s) = .on then .off else .on
      ch1 := { mode := .idle, ccr := s.regs.ch1.ccr }
      toneDiv := (toneAfter s.params s.regs (if eventState s.regs (pins s) = .on then .off else .on)).1
      toneOut := (toneAfter s.params s.regs (if eventState s.regs (pins s) = .on then .off else .on)).2 } }

/-- R83: `ON_DELAY` makes the state `PENDING`, arms channel 1 from the counter at the start of the cycle, and answers the
clamped tick count; the tone stops at once. -/
def Obligations.OnDelayResult : Prop :=
  ∀ (s : State) (a : CmdArg), Live s →
    let d := max 1 (min a.toNat (2 ^ s.params.w - 1))
    (BitVec.ofNat 32 d).toNat = d ∧
    ∃ n, exec (.nop a) s = .next n ∧
      exec (.onDelay a) s = .next { n with regs := { n.regs with
        pttState := .pending
        ch1 := { mode := .armedCompare, ccr := (s.regs.cnt + d) % 2 ^ s.params.w }
        rspValid := true
        rspData := BitVec.ofNat 32 d
        toneDiv := 0
        toneOut := false } }

/-- R84, R88: `GET` differs from `NOP`'s cycle in the response register alone, and reports the state at the end of its
cycle, which is the transmit line of the next cycle. -/
def Obligations.GetReportsTheFinalState : Prop :=
  ∀ (s : State) (a : CmdArg), Live s → ∃ n, exec (.nop a) s = .next n ∧
    exec (.get a) s = .next { n with regs := { n.regs with
      rspValid := true
      rspData := if eventState s.regs (pins s) = .on then 1#32 else 0#32 } } ∧
    (pttOut n.regs = true ↔ eventState s.regs (pins s) = .on)

/-- R85: a reserved opcode has the effect of `NOP`. -/
def Obligations.ReservedOpcodeActsAsNop : Prop :=
  ∀ (s : State) (a : CmdArg), Live s → (pins s).cmdValid = true → ((pins s).cmdOp = 6#3 ∨ (pins s).cmdOp = 7#3) →
    ∃ t, step s = .next t ∧ exec (.nop a) s = .next t ∧
      t.regs.pttState = eventState s.regs (pins s) ∧ t.regs.rspValid = false ∧ t.regs.rspData = s.regs.rspData

/-- R82: the clamp and its two ends. -/
def Obligations.DelayClamp : Prop :=
  ∀ (p : Params) (a : CmdArg), p.valid = true →
    clampDelay p a = max 1 (min a.toNat (2 ^ p.w - 1)) ∧
    1 ≤ clampDelay p a ∧ clampDelay p a ≤ 2 ^ p.w - 1 ∧
    (a = 0#32 → clampDelay p a = 1) ∧ (2 ^ p.w - 1 ≤ a.toNat → clampDelay p a = 2 ^ p.w - 1)

/-- R52: the response register after every cycle without reset. -/
def Obligations.ResponseRegister : Prop :=
  ∀ s : State, Live s → ∃ t, step s = .next t ∧
    match presented (pins s) with
    | .command (.onDelay a) =>
      t.regs.rspValid = true ∧ t.regs.rspData.toNat = clampDelay s.params a ∧
        1 ≤ clampDelay s.params a ∧ clampDelay s.params a ≤ 2 ^ s.params.w - 1
    | .command (.get _) =>
      t.regs.rspValid = true ∧ t.regs.rspData = if t.regs.pttState = .on then 1#32 else 0#32
    | _ => t.regs.rspValid = false ∧ t.regs.rspData = s.regs.rspData

/-! ### Order of writers -/

/-- R96: the events of a cycle in their order, and the host command last. -/
def Obligations.HostCommandWritesLast : Prop :=
  ∀ (s : State) (i : Instr), Live s → ∃ t, exec i s = .next t ∧
    eventState s.regs (pins s) =
      (match fire1 s.regs, debToggle s.regs (pins s) with
       | true, true => .off
       | true, false => .on
       | false, true => if s.regs.pttState = .on then .off else .on
       | false, false => s.regs.pttState) ∧
    t.regs.pttState =
      (match i with
       | .setOff _ => .off
       | .setOn _ => .on
       | .onDelay _ => .pending
       | .toggle _ => if eventState s.regs (pins s) = .on then .off else .on
       | .nop _ => eventState s.regs (pins s)
       | .get _ => eventState s.regs (pins s))

/-- R76: the delay fire asserts `ON` and disarms channel 1, where no later writer acts. -/
def Obligations.DelayFireAssertsOn : Prop :=
  ∀ s : State, Live s → (pins s).cmdValid = false → debToggle s.regs (pins s) = false →
    s.regs.ch1.mode = .armedCompare → s.regs.cnt = s.regs.ch1.ccr →
    ∃ t, step s = .next t ∧ t.regs.pttState = .on ∧ pttOut t.regs = true ∧
      t.regs.ch1 = { mode := .idle, ccr := s.regs.ch1.ccr }

/-- R77: the debounce toggle acts on the triple that a delay fire of the same cycle has already changed. -/
def Obligations.DebounceToggleFlipsTheState : Prop :=
  ∀ s : State, Live s → (pins s).cmdValid = false → debToggle s.regs (pins s) = true →
    ∃ t, step s = .next t ∧ t.regs.ch1 = { mode := .idle, ccr := s.regs.ch1.ccr } ∧
      (fire1 s.regs = true → t.regs.pttState = .off) ∧
      (fire1 s.regs = false → s.regs.pttState = .on → t.regs.pttState = .off) ∧
      (fire1 s.regs = false → s.regs.pttState ≠ .on → t.regs.pttState = .on)

/-- The transmit line goes on only by a delay fire, a debounce toggle, `SET_ON` or `TOGGLE`, never in a reset cycle. -/
def Obligations.TransmitStartsOnlyForCause : Prop :=
  ∀ s t : State, step s = .next t → pttOut s.regs = false → pttOut t.regs = true →
    (pins s).rst = false ∧
    (fire1 s.regs = true ∨ debToggle s.regs (pins s) = true ∨
      (∃ a, presented (pins s) = .command (.setOn a)) ∨ (∃ a, presented (pins s) = .command (.toggle a)))

/-- `PENDING` is entered, and channel 1 armed or given a new target, only by `ON_DELAY`. -/
def Obligations.PendingOnlyByOnDelay : Prop :=
  ∀ s t : State, step s = .next t → t.regs.pttState = .pending ∨ t.regs.ch1.mode = .armedCompare →
    (∃ a, presented (pins s) = .command (.onDelay a)) ∨
    (t.regs.pttState = s.regs.pttState ∧ t.regs.ch1 = s.regs.ch1)

/-- R119: a host `TOGGLE` in the cycle of a debounce toggle cancels it. -/
def Obligations.TwoTogglesInOneCycleCancel : Prop :=
  ∀ (s : State) (a : CmdArg), Live s → fire1 s.regs = false → debToggle s.regs (pins s) = true →
    ∃ t, exec (.toggle a) s = .next t ∧ (t.regs.pttState = .on ↔ s.regs.pttState = .on)

/-! ### Shared timer -/

/-- R57, R58, R60: arming, disarming and firing of a channel. -/
def Obligations.ChannelOperations : Prop :=
  ∀ (p : Params) (c : Channel) (cnt delta : Nat),
    Channel.arm p cnt delta = { mode := .armedCompare, ccr := (cnt + delta) % 2 ^ p.w } ∧
    c.disarm = { mode := .idle, ccr := c.ccr } ∧ (c.mode = .idle → c.disarm = c) ∧
    (c.fires cnt = true ↔ c.mode = .armedCompare ∧ cnt = c.ccr) ∧ c.disarm.fires cnt = false

/-- R55: the counter advances by one in each tick, modulo `2^W`, and nothing else but reset moves it. -/
def Obligations.CounterCountsTicks : Prop :=
  (∀ s : State, Live s → ∃ t, step s = .next t ∧
    t.regs.cnt = if (pins s).tick then (s.regs.cnt + 1) % 2 ^ s.params.w else s.regs.cnt) ∧
  (∀ (s : State) (is rest : List Inputs), s.params.valid = true → s.regs.cnt < 2 ^ s.params.w →
    s.inputs = is ++ rest → (∀ x ∈ is, x.rst = false) →
    ∃ t, runCycles is.length s = .next t ∧ t.regs.cnt = (s.regs.cnt + ticksIn is) % 2 ^ s.params.w)

/-- R62: the counter, channel 0 and the debounce engine do not depend on the command, nor on the PTT state, channel 1, the
response or the tone. -/
def Obligations.DebounceIndependentOfPttSide : Prop :=
  (∀ (i j : Instr) (s t u : State), exec i s = .next t → exec j s = .next u → SameTimerAndDebounce t.regs u.regs) ∧
  (∀ s u t v : State, s.params = u.params → SameTimerAndDebounce s.regs u.regs →
    (pins s).rst = (pins u).rst → (pins s).btnIn = (pins u).btnIn → (pins s).tick = (pins u).tick →
    step s = .next t → step u = .next v → SameTimerAndDebounce t.regs v.regs)

/-- R61, R83, R89 Q4: a delay runs for exactly its clamped count of ticks, the arming cycle's tick included, and then the
state becomes `ON`. `is` are the cycles after the arming one, none of whose proper beginnings reaches the count; `j` is the
cycle after them. -/
def Obligations.DelayRunsItsTicks : Prop :=
  ∀ (s : State) (a : CmdArg) (i₀ j : Inputs) (is rest : List Inputs), s.params.valid = true →
    s.regs.cnt < 2 ^ s.params.w → s.inputs = i₀ :: (is ++ j :: rest) →
    i₀.rst = false → presented i₀ = .command (.onDelay a) → (∀ x ∈ is ++ [j], NoCommand x) →
    s.regs.debState = .idle → (∀ x ∈ i₀ :: (is ++ [j]), x.btnIn = s.regs.lineState) →
    (∀ q, q <+: is → q ≠ is → ticksIn (i₀ :: q) < clampDelay s.params a) →
    ticksIn (i₀ :: is) ≤ clampDelay s.params a ∧
    ∃ t u, runCycles (1 + is.length) s = .next t ∧ step t = .next u ∧
      t.regs.pttState = .pending ∧
      delayRemaining s.params t.regs = clampDelay s.params a - ticksIn (i₀ :: is) ∧
      (fire1 t.regs = true ↔ ticksIn (i₀ :: is) = clampDelay s.params a) ∧
      u.regs.pttState = (if ticksIn (i₀ :: is) = clampDelay s.params a then .on else .pending)

/-- R79, R89 Q2: after `SET_OFF`, with no later command and a steady button, the state is `OFF` in every later cycle. -/
def Obligations.SetOffCancelsForGood : Prop :=
  ∀ (s : State) (a : CmdArg) (i₀ : Inputs) (is rest : List Inputs), s.params.valid = true →
    s.inputs = i₀ :: (is ++ rest) → i₀.rst = false → presented i₀ = .command (.setOff a) →
    (∀ x ∈ is, NoCommand x) → s.regs.debState = .idle → (∀ x ∈ i₀ :: is, x.btnIn = s.regs.lineState) →
    ∃ t, runCycles (1 + is.length) s = .next t ∧ t.regs.pttState = .off ∧ t.regs.ch1.mode = .idle ∧
      pttOut t.regs = false

/-! ### Debounce engine -/

/-- R66: an edge seen while `IDLE` opens a window, records its polarity and arms channel 0; it requests no toggle. -/
def Obligations.EdgeOpensWindow : Prop :=
  ∀ s : State, Live s → s.regs.debState = .idle → (pins s).btnIn ≠ s.regs.lineState →
    ∃ t, step s = .next t ∧ t.regs.debState = .captured ∧
      t.regs.debPol = (if (pins s).btnIn = s.params.btnActiveLevel then .press else .release) ∧
      t.regs.lineState = (pins s).btnIn ∧ t.regs.edgeIfg = false ∧
      t.regs.ch0 =
        { mode := .armedCompare, ccr := (s.regs.cnt + s.params.debounceTicks) % 2 ^ s.params.w } ∧
      debToggle s.regs (pins s) = false ∧
      ((pins s).cmdValid = false → fire1 s.regs = false →
        t.regs.pttState = s.regs.pttState ∧ t.regs.ch1 = s.regs.ch1)

/-- R67: an edge inside a window sets the pending-edge flag and does nothing else. -/
def Obligations.EdgeInsideWindowIsIgnored : Prop :=
  ∀ s : State, Live s → s.regs.debState = .captured → fire0 s.regs = false → (pins s).btnIn ≠ s.regs.lineState →
    ∃ t, step s = .next t ∧ t.regs.edgeIfg = true ∧ t.regs.debState = .captured ∧ t.regs.debPol = s.regs.debPol ∧
      t.regs.lineState = s.regs.lineState ∧ t.regs.ch0 = s.regs.ch0 ∧ debToggle s.regs (pins s) = false ∧
      ((pins s).cmdValid = false → fire1 s.regs = false →
        t.regs.pttState = s.regs.pttState ∧ t.regs.ch1 = s.regs.ch1)

/-- R68: at expiry the window closes, the line's level is taken over, and a toggle is requested exactly when a press opened
the window; in every other cycle none is. -/
def Obligations.WindowExpiry : Prop :=
  (∀ s : State, Live s → s.regs.debState = .captured → s.regs.ch0.mode = .armedCompare →
    s.regs.cnt = s.regs.ch0.ccr →
    ∃ t, step s = .next t ∧ t.regs.debState = .idle ∧ t.regs.ch0 = { mode := .idle, ccr := s.regs.ch0.ccr } ∧
      t.regs.edgeIfg = false ∧ t.regs.lineState = (pins s).btnIn ∧ t.regs.debPol = s.regs.debPol ∧
      (debToggle s.regs (pins s) = true ↔ s.regs.debPol = .press) ∧
      ((pins s).cmdValid = false → fire1 s.regs = false → s.regs.debPol = .press →
        t.regs.pttState = if s.regs.pttState = .on then .off else .on) ∧
      ((pins s).cmdValid = false → fire1 s.regs = false → s.regs.debPol = .release →
        t.regs.pttState = s.regs.pttState)) ∧
  (∀ (r : Regs) (i : Inputs), ¬ (r.debState = .captured ∧ r.ch0.mode = .armedCompare ∧ r.cnt = r.ch0.ccr) →
    debToggle r i = false)

/-- R69: in a quiet cycle no register of the engine is written and no toggle is requested. -/
def Obligations.QuietDebounceCycle : Prop :=
  ∀ s : State, Live s → (pins s).btnIn = s.regs.lineState →
    (s.regs.debState = .idle ∨ s.regs.debState = .captured ∧ fire0 s.regs = false) →
    ∃ t, step s = .next t ∧ t.regs.debState = s.regs.debState ∧ t.regs.debPol = s.regs.debPol ∧
      t.regs.edgeIfg = s.regs.edgeIfg ∧ t.regs.lineState = s.regs.lineState ∧ t.regs.ch0 = s.regs.ch0 ∧
      debToggle s.regs (pins s) = false

/-- R61, R72: a window runs for exactly `DEBOUNCE_TICKS` ticks, the accepting cycle's tick included, whatever the line
does inside it; at its expiry the state toggles once if a press opened it, and not at all if a release did. `is` are the
cycles after the accepting one, none of whose proper beginnings reaches the count; `j` is the cycle after them. -/
def Obligations.WindowRunsItsTicks : Prop :=
  ∀ (s : State) (i₀ j : Inputs) (is rest : List Inputs), s.params.valid = true →
    s.regs.cnt < 2 ^ s.params.w → s.inputs = i₀ :: (is ++ j :: rest) →
    (∀ x ∈ i₀ :: (is ++ [j]), NoCommand x) →
    s.regs.debState = .idle → i₀.btnIn ≠ s.regs.lineState → s.regs.ch1.mode = .idle →
    (∀ q, q <+: is → q ≠ is → ticksIn (i₀ :: q) < s.params.debounceTicks) →
    ticksIn (i₀ :: is) ≤ s.params.debounceTicks ∧
    ∃ t u, runCycles (1 + is.length) s = .next t ∧ step t = .next u ∧
      t.regs.debState = .captured ∧ t.regs.lineState = i₀.btnIn ∧ t.regs.pttState = s.regs.pttState ∧
      windowRemaining s.params t.regs = s.params.debounceTicks - ticksIn (i₀ :: is) ∧
      (ticksIn (i₀ :: is) < s.params.debounceTicks →
        u.regs.debState = .captured ∧ u.regs.pttState = s.regs.pttState) ∧
      (ticksIn (i₀ :: is) = s.params.debounceTicks →
        u.regs.debState = .idle ∧ u.regs.lineState = j.btnIn ∧
        u.regs.pttState =
          (if i₀.btnIn = s.params.btnActiveLevel then
            (if s.regs.pttState = .on then .off else .on)
          else s.regs.pttState))

/-- R122, R68: a change of the line that still stands at expiry opens no window of its own. -/
def Obligations.AbsorbedChangeOpensNoWindow : Prop :=
  ∀ (s : State) (i j : Inputs) (rest : List Inputs), s.params.valid = true → s.inputs = i :: j :: rest →
    i.rst = false → j.rst = false → s.regs.debState = .captured → fire0 s.regs = true →
    i.btnIn ≠ s.regs.lineState → j.btnIn = i.btnIn →
    ∃ t, runCycles 2 s = .next t ∧ t.regs.debState = .idle ∧ t.regs.ch0.mode = .idle ∧ t.regs.edgeIfg = false ∧
      t.regs.lineState = i.btnIn

/-- R124: without ticks an open window that has not expired stays open and the button is ignored, whatever the host does;
and, without commands, a delay that has not fired stays pending, whatever the button does. -/
def Obligations.NoTicksNoProgress : Prop :=
  (∀ (s : State) (is rest : List Inputs), s.params.valid = true → s.inputs = is ++ rest →
    (∀ x ∈ is, x.rst = false ∧ x.tick = false) → s.regs.debState = .captured → fire0 s.regs = false →
    ∃ t, runCycles is.length s = .next t ∧ t.regs.debState = .captured ∧ t.regs.cnt = s.regs.cnt ∧
      t.regs.ch0 = s.regs.ch0 ∧ t.regs.lineState = s.regs.lineState) ∧
  (∀ (s : State) (is rest : List Inputs), s.params.valid = true → s.regs.cnt < 2 ^ s.params.w →
    s.inputs = is ++ rest → (∀ x ∈ is, NoCommand x ∧ x.tick = false) →
    s.regs.pttState = .pending → fire1 s.regs = false → fire0 s.regs = false →
    ∃ t, runCycles is.length s = .next t ∧ t.regs.pttState = .pending ∧ t.regs.ch1 = s.regs.ch1 ∧
      pttOut t.regs = false)

/-! ### Tone generator -/

/-- R91: in a cycle that does not end in `ON` the tone stops at once and its output is low. -/
def Obligations.ToneStopsUnlessOn : Prop :=
  ∀ s : State, Live s → ∃ t, step s = .next t ∧
    (t.regs.pttState ≠ .on → t.regs.toneDiv = 0 ∧ t.regs.toneOut = false)

/-- R92: a start from `OFF` and a start from `PENDING` begin with a high half-period at its first cycle. -/
def Obligations.ToneStartsHigh : Prop :=
  ∀ s : State, Live s → s.regs.pttState ≠ .on → ∃ t, step s = .next t ∧
    (t.regs.pttState = .on → t.regs.toneDiv = 0 ∧ t.regs.toneOut = true)

/-- R93: while `ON` is held the divider counts the cycles of a half-period, at whose end the output inverts. A cycle that
starts and ends in `ON`, but in which a debounce toggle and a host `TOGGLE` cancel, is covered too: that the wave runs on
there, without a restart, is the model's choice (log entry 12, DEDUCED: the pseudocode of R93 and R95, against one reading of
R93's last corner case). -/
def Obligations.ToneRunsWhileOn : Prop :=
  ∀ s : State, Live s → Inv5 s.params s.regs → s.regs.pttState = .on → ∃ t, step s = .next t ∧
    (t.regs.pttState = .on →
      (s.regs.toneDiv = s.params.toneHalfCycles - 1 → t.regs.toneDiv = 0 ∧ t.regs.toneOut = !s.regs.toneOut) ∧
      (s.regs.toneDiv ≠ s.params.toneHalfCycles - 1 →
        t.regs.toneDiv = s.regs.toneDiv + 1 ∧ t.regs.toneOut = s.regs.toneOut))

/-- R94: the tone is a square wave whose half-periods are exactly `TONE_HALF_CYCLES` cycles each, as long as `ON` is
held. -/
def Obligations.ToneIsSquareWave : Prop :=
  ∀ (s : State) (is rest : List Inputs), s.params.valid = true → s.inputs = is ++ rest →
    (∀ x ∈ is, NoCommand x ∧ x.btnIn = s.regs.lineState) → s.regs.debState = .idle →
    s.regs.pttState = .on → s.regs.ch1.mode = .idle → s.regs.toneDiv = 0 →
    ∃ t, runCycles is.length s = .next t ∧ t.regs.pttState = .on ∧
      t.regs.toneDiv = is.length % s.params.toneHalfCycles ∧
      t.regs.toneOut =
        (if is.length / s.params.toneHalfCycles % 2 = 0 then s.regs.toneOut else !s.regs.toneOut)

/-! ### Invariants -/

/-- R99, R29: every step of a good state goes on to a good state; and a reset cycle of any valid instance, whatever its
registers held, leads to a good state. -/
def Obligations.StepKeepsInvariants : Prop :=
  (∀ s : State, Inv s → ∃ t, step s = .next t ∧ Inv t) ∧
  (∀ s : State, s.params.valid = true → (pins s).rst = true → ∃ t, step s = .next t ∧ Inv t)

/-- `State.reset` is a good state: the register values are R113's; the parameters and the button's level are the model's
choice (log entries 2, 3 and 5). -/
def Obligations.ResetStateIsGood : Prop := Inv State.reset

/-! ### The host's side -/

/-- R86: a request of at most 0 seconds is rejected; for any other, the delay scheduled differs from the request by at
most half a tick unless the clamp applies, and equals it exactly when the request is a whole number of ticks in
range. -/
def Obligations.SecondsConversion : Prop :=
  ∀ (p : Params) (sec : Rat), p.valid = true →
    (sec ≤ 0 → secToTicks p sec = none ∧ delayCommand p sec = none) ∧
    (0 < sec → ∃ req : Nat, secToTicks p sec = some req ∧ req < 2 ^ 32 ∧
      delayCommand p sec = some (.onDelay (BitVec.ofNat 32 req)) ∧
      (1 ≤ (sec * p.fTick + 1 / 2).floor → (sec * p.fTick + 1 / 2).floor ≤ 2 ^ p.w - 1 →
        |actualSeconds p (zext32 (clampDelay p (BitVec.ofNat 32 req))) - sec| ≤ 1 / (2 * p.fTick)) ∧
      (actualSeconds p (zext32 (clampDelay p (BitVec.ofNat 32 req))) = sec ↔
        ∃ n : Nat, 1 ≤ n ∧ n ≤ 2 ^ p.w - 1 ∧ sec * p.fTick = n))

/-- R53, R54: what a script line expands to. -/
def Obligations.ScriptLinesExpand : Prop :=
  ∀ p : Params,
    expandLine p (.setState true) = .ok [some (.setOn 0#32)] ∧
    expandLine p (.setState false) = .ok [some (.setOff 0#32)] ∧
    (∀ n, expandLine p (.wait n) = .ok (List.replicate n none)) ∧
    (∀ n, n < 2 ^ 32 → expandLine p (.command .onDelay (some n)) = .ok [some (.onDelay (BitVec.ofNat 32 n))]) ∧
    (∀ n, 2 ^ 32 ≤ n → expandLine p (.command .onDelay (some n)) = .error .illFormed) ∧
    expandLine p (.command .onDelay none) = .error .illFormed ∧
    (∀ m, m ≠ .onDelay → expandLine p (.command m none) = .ok [some (commandOf m 0#32)] ∧
      ∀ n, expandLine p (.command m (some n)) = .error .illFormed) ∧
    (∀ q : Rat, 0 < q → ∃ i, delayCommand p q = some i ∧ expandLine p (.onDelaySeconds q) = .ok [some i]) ∧
    (∀ q : Rat, q ≤ 0 → expandLine p (.onDelaySeconds q) = .error .illFormed)
end

