-- ==== Sys2Proof/Laws/State.lean ====
section
/-! SUPPORT. One lemma per field per update: what each register update and each phase of a cycle leaves in each field, so
that no later proof unfolds a record update. -/

namespace Sys2Proof.Machine

section channel
variable (p : Params) (c : Channel) (cnt delta : Nat)

@[simp] theorem Channel.arm_mode : (Channel.arm p cnt delta).mode = .armedCompare := rfl
@[simp] theorem Channel.arm_ccr : (Channel.arm p cnt delta).ccr = wrapAdd p.w cnt delta := rfl
@[simp] theorem Channel.disarm_mode : c.disarm.mode = .idle := rfl
@[simp] theorem Channel.disarm_ccr : c.disarm.ccr = c.ccr := rfl

end channel

section triple
variable (p : Params) (r : Regs) (x : PttState) (t : Triple) (cnt d : Nat)

@[simp] theorem startTriple_p : (startTriple r).p = r.pttState := rfl
@[simp] theorem startTriple_ch1 : (startTriple r).ch1 = r.ch1 := rfl
@[simp] theorem setP_p : (setP x t).p = x := rfl
@[simp] theorem setP_ch1 : (setP x t).ch1 = t.ch1.disarm := rfl
@[simp] theorem toggleP_p : (toggleP t).p = toggled t.p := rfl
@[simp] theorem toggleP_ch1 : (toggleP t).ch1 = t.ch1.disarm := rfl
@[simp] theorem pendP_p : (pendP p cnt d t).p = .pending := rfl
@[simp] theorem pendP_ch1 : (pendP p cnt d t).ch1 = Channel.arm p cnt d := rfl

end triple

section timerPhase
variable (p : Params) (r : Regs) (i : Inputs) (a : Regs)

@[simp] theorem timerPhase_cnt : (timerPhase p r i a).cnt = if i.tick then wrapAdd p.w r.cnt 1 else r.cnt := rfl
@[simp] theorem timerPhase_ch0 : (timerPhase p r i a).ch0 = a.ch0 := rfl
@[simp] theorem timerPhase_ch1 : (timerPhase p r i a).ch1 = a.ch1 := rfl
@[simp] theorem timerPhase_debState : (timerPhase p r i a).debState = a.debState := rfl
@[simp] theorem timerPhase_debPol : (timerPhase p r i a).debPol = a.debPol := rfl
@[simp] theorem timerPhase_edgeIfg : (timerPhase p r i a).edgeIfg = a.edgeIfg := rfl
@[simp] theorem timerPhase_lineState : (timerPhase p r i a).lineState = a.lineState := rfl
@[simp] theorem timerPhase_pttState : (timerPhase p r i a).pttState = a.pttState := rfl
@[simp] theorem timerPhase_rspValid : (timerPhase p r i a).rspValid = a.rspValid := rfl
@[simp] theorem timerPhase_rspData : (timerPhase p r i a).rspData = a.rspData := rfl
@[simp] theorem timerPhase_toneDiv : (timerPhase p r i a).toneDiv = a.toneDiv := rfl
@[simp] theorem timerPhase_toneOut : (timerPhase p r i a).toneOut = a.toneOut := rfl

end timerPhase

section debouncePhase
variable (p : Params) (r : Regs) (i : Inputs) (a : Regs)

@[simp] theorem debouncePhase_cnt : (debouncePhase p r i a).cnt = a.cnt := by
  unfold debouncePhase; split <;> rfl
@[simp] theorem debouncePhase_ch1 : (debouncePhase p r i a).ch1 = a.ch1 := by
  unfold debouncePhase; split <;> rfl
@[simp] theorem debouncePhase_pttState : (debouncePhase p r i a).pttState = a.pttState := by
  unfold debouncePhase; split <;> rfl
@[simp] theorem debouncePhase_rspValid : (debouncePhase p r i a).rspValid = a.rspValid := by
  unfold debouncePhase; split <;> rfl
@[simp] theorem debouncePhase_rspData : (debouncePhase p r i a).rspData = a.rspData := by
  unfold debouncePhase; split <;> rfl
@[simp] theorem debouncePhase_toneDiv : (debouncePhase p r i a).toneDiv = a.toneDiv := by
  unfold debouncePhase; split <;> rfl
@[simp] theorem debouncePhase_toneOut : (debouncePhase p r i a).toneOut = a.toneOut := by
  unfold debouncePhase; split <;> rfl

/-- What the debounce engine latches at an accepted edge (R66). -/
theorem debouncePhase_accept (h : debounceEvent r i = .accept) :
    debouncePhase p r i a =
      { a with
        debState := .captured
        debPol := edgePolarity p i
        lineState := i.btnIn
        edgeIfg := false
        ch0 := Channel.arm p r.cnt p.debounceTicks } := by
  unfold debouncePhase; rw [h]

/-- What the debounce engine latches at an ignored edge (R67). -/
theorem debouncePhase_ignore (h : debounceEvent r i = .ignore) :
    debouncePhase p r i a = { a with edgeIfg := true } := by
  unfold debouncePhase; rw [h]

/-- What the debounce engine latches at an expiry (R68). -/
theorem debouncePhase_expire (h : debounceEvent r i = .expire) :
    debouncePhase p r i a =
      { a with debState := .idle, ch0 := r.ch0.disarm, edgeIfg := false, lineState := i.btnIn } := by
  unfold debouncePhase; rw [h]

/-- What the debounce engine latches in a quiet cycle: nothing (R69). -/
theorem debouncePhase_quiet (h : debounceEvent r i = .quiet) : debouncePhase p r i a = a := by
  unfold debouncePhase; rw [h]

end debouncePhase

section pttPhase
variable (t : Triple) (a : Regs)

@[simp] theorem pttPhase_cnt : (pttPhase t a).cnt = a.cnt := rfl
@[simp] theorem pttPhase_ch0 : (pttPhase t a).ch0 = a.ch0 := rfl
@[simp] theorem pttPhase_ch1 : (pttPhase t a).ch1 = t.ch1 := rfl
@[simp] theorem pttPhase_debState : (pttPhase t a).debState = a.debState := rfl
@[simp] theorem pttPhase_debPol : (pttPhase t a).debPol = a.debPol := rfl
@[simp] theorem pttPhase_edgeIfg : (pttPhase t a).edgeIfg = a.edgeIfg := rfl
@[simp] theorem pttPhase_lineState : (pttPhase t a).lineState = a.lineState := rfl
@[simp] theorem pttPhase_pttState : (pttPhase t a).pttState = t.p := rfl
@[simp] theorem pttPhase_rspValid : (pttPhase t a).rspValid = a.rspValid := rfl
@[simp] theorem pttPhase_rspData : (pttPhase t a).rspData = a.rspData := rfl
@[simp] theorem pttPhase_toneDiv : (pttPhase t a).toneDiv = a.toneDiv := rfl
@[simp] theorem pttPhase_toneOut : (pttPhase t a).toneOut = a.toneOut := rfl

end pttPhase

section responsePhase
variable (o : Option RspWord) (a : Regs)

@[simp] theorem responsePhase_cnt : (responsePhase o a).cnt = a.cnt := rfl
@[simp] theorem responsePhase_ch0 : (responsePhase o a).ch0 = a.ch0 := rfl
@[simp] theorem responsePhase_ch1 : (responsePhase o a).ch1 = a.ch1 := rfl
@[simp] theorem responsePhase_debState : (responsePhase o a).debState = a.debState := rfl
@[simp] theorem responsePhase_debPol : (responsePhase o a).debPol = a.debPol := rfl
@[simp] theorem responsePhase_edgeIfg : (responsePhase o a).edgeIfg = a.edgeIfg := rfl
@[simp] theorem responsePhase_lineState : (responsePhase o a).lineState = a.lineState := rfl
@[simp] theorem responsePhase_pttState : (responsePhase o a).pttState = a.pttState := rfl
@[simp] theorem responsePhase_rspValid : (responsePhase o a).rspValid = o.isSome := rfl
@[simp] theorem responsePhase_rspData : (responsePhase o a).rspData = o.getD a.rspData := rfl
@[simp] theorem responsePhase_toneDiv : (responsePhase o a).toneDiv = a.toneDiv := rfl
@[simp] theorem responsePhase_toneOut : (responsePhase o a).toneOut = a.toneOut := rfl

end responsePhase

section tonePhase
variable (p : Params) (r : Regs) (x : PttState) (a : Regs)

@[simp] theorem tonePhase_cnt : (tonePhase p r x a).cnt = a.cnt := by
  unfold tonePhase; split_ifs <;> rfl
@[simp] theorem tonePhase_ch0 : (tonePhase p r x a).ch0 = a.ch0 := by
  unfold tonePhase; split_ifs <;> rfl
@[simp] theorem tonePhase_ch1 : (tonePhase p r x a).ch1 = a.ch1 := by
  unfold tonePhase; split_ifs <;> rfl
@[simp] theorem tonePhase_debState : (tonePhase p r x a).debState = a.debState := by
  unfold tonePhase; split_ifs <;> rfl
@[simp] theorem tonePhase_debPol : (tonePhase p r x a).debPol = a.debPol := by
  unfold tonePhase; split_ifs <;> rfl
@[simp] theorem tonePhase_edgeIfg : (tonePhase p r x a).edgeIfg = a.edgeIfg := by
  unfold tonePhase; split_ifs <;> rfl
@[simp] theorem tonePhase_lineState : (tonePhase p r x a).lineState = a.lineState := by
  unfold tonePhase; split_ifs <;> rfl
@[simp] theorem tonePhase_pttState : (tonePhase p r x a).pttState = a.pttState := by
  unfold tonePhase; split_ifs <;> rfl
@[simp] theorem tonePhase_rspValid : (tonePhase p r x a).rspValid = a.rspValid := by
  unfold tonePhase; split_ifs <;> rfl
@[simp] theorem tonePhase_rspData : (tonePhase p r x a).rspData = a.rspData := by
  unfold tonePhase; split_ifs <;> rfl

/-- The divider at the end of a cycle (R91 to R93). -/
theorem tonePhase_toneDiv : (tonePhase p r x a).toneDiv =
    if x = .on ∧ r.pttState = .on ∧ r.toneDiv ≠ p.toneHalfCycles - 1 then latchToneDiv p (r.toneDiv + 1) else 0 := by
  unfold tonePhase; split_ifs <;> simp_all

/-- The tone output at the end of a cycle (R91 to R93). -/
theorem tonePhase_toneOut : (tonePhase p r x a).toneOut =
    if x ≠ .on then false
    else if r.pttState ≠ .on then true
    else if r.toneDiv = p.toneHalfCycles - 1 then !r.toneOut else r.toneOut := by
  unfold tonePhase; split_ifs <;> rfl

end tonePhase

section advance
variable (s : State) (r : Regs)

@[simp] theorem advance_params : (advance s r).params = s.params := rfl
@[simp] theorem advance_regs : (advance s r).regs = r := rfl
@[simp] theorem advance_inputs : (advance s r).inputs = s.inputs.tail := rfl
@[simp] theorem advance_cycle : (advance s r).cycle = s.cycle + 1 := rfl

end advance

/-- The reset state's registers are what a reset cycle with the button at 0 latches (R113). -/
theorem reset_regs : State.reset.regs = resetRegs false := rfl

end Sys2Proof.Machine
end

