-- ==== Sys2Proof/Laws/Cycle.lean ====
section
/-! SUPPORT. What a cycle can do, said once: the fields of `cycleRegs`, the outcome of `runCycle`, and `step` and `exec` as
`runCycle` of one host command. -/

namespace Sys2Proof.Machine

section fields
variable (p : Params) (r : Regs) (i : Inputs) (c : HostCommand)

@[simp] theorem cycleRegs_cnt : (cycleRegs p r i c).cnt = if i.tick then wrapAdd p.w r.cnt 1 else r.cnt := by
  simp [cycleRegs]

@[simp] theorem cycleRegs_pttState : (cycleRegs p r i c).pttState = (finalTriple r i c).p := by
  simp [cycleRegs]

@[simp] theorem cycleRegs_ch1 : (cycleRegs p r i c).ch1 = (finalTriple r i c).ch1 := by
  simp [cycleRegs]

@[simp] theorem cycleRegs_rspValid :
    (cycleRegs p r i c).rspValid = (c.answer (finalTriple r i c).p).isSome := by
  simp [cycleRegs]

@[simp] theorem cycleRegs_rspData :
    (cycleRegs p r i c).rspData = (c.answer (finalTriple r i c).p).getD r.rspData := by
  simp [cycleRegs]

@[simp] theorem cycleRegs_debState : (cycleRegs p r i c).debState = (debouncePhase p r i r).debState := by
  simp only [cycleRegs, tonePhase_debState, responsePhase_debState, pttPhase_debState]
  unfold debouncePhase; split <;> rfl

@[simp] theorem cycleRegs_debPol : (cycleRegs p r i c).debPol = (debouncePhase p r i r).debPol := by
  simp only [cycleRegs, tonePhase_debPol, responsePhase_debPol, pttPhase_debPol]
  unfold debouncePhase; split <;> rfl

@[simp] theorem cycleRegs_edgeIfg : (cycleRegs p r i c).edgeIfg = (debouncePhase p r i r).edgeIfg := by
  simp only [cycleRegs, tonePhase_edgeIfg, responsePhase_edgeIfg, pttPhase_edgeIfg]
  unfold debouncePhase; split <;> rfl

@[simp] theorem cycleRegs_lineState : (cycleRegs p r i c).lineState = (debouncePhase p r i r).lineState := by
  simp only [cycleRegs, tonePhase_lineState, responsePhase_lineState, pttPhase_lineState]
  unfold debouncePhase; split <;> rfl

@[simp] theorem cycleRegs_ch0 : (cycleRegs p r i c).ch0 = (debouncePhase p r i r).ch0 := by
  simp only [cycleRegs, tonePhase_ch0, responsePhase_ch0, pttPhase_ch0]
  unfold debouncePhase; split <;> rfl

theorem cycleRegs_toneDiv : (cycleRegs p r i c).toneDiv =
    if (finalTriple r i c).p = .on ∧ r.pttState = .on ∧ r.toneDiv ≠ p.toneHalfCycles - 1
    then latchToneDiv p (r.toneDiv + 1) else 0 := by
  simp [cycleRegs, tonePhase_toneDiv]

theorem cycleRegs_toneOut : (cycleRegs p r i c).toneOut =
    if (finalTriple r i c).p ≠ .on then false
    else if r.pttState ≠ .on then true
    else if r.toneDiv = p.toneHalfCycles - 1 then !r.toneOut else r.toneOut := by
  simp [cycleRegs, tonePhase_toneOut]

theorem nextRegs_reset (h : i.rst = true) : nextRegs p r i c = resetRegs i.btnIn := by
  simp [nextRegs, h]

theorem nextRegs_live (h : i.rst = false) : nextRegs p r i c = cycleRegs p r i c := by
  simp [nextRegs, h]

end fields

section outcome
variable (s t : State) (c : HostCommand)

/-- All that a cycle can do: in a valid instance it goes on to the registers of `nextRegs`. -/
theorem runCycle_valid (h : s.params.valid = true) :
    runCycle s c = .next (advance s (nextRegs s.params s.regs (pins s) c)) := by
  simp [runCycle, h]

/-- An invalid configuration is refused (R8). -/
theorem runCycle_invalid (h : s.params.valid = false) : runCycle s c = .refused .invalidParameters := by
  simp [runCycle, h]

/-- Inversion: a cycle that answers a next state belongs to a valid instance, and the state is the one above. -/
theorem runCycle_next (h : runCycle s c = .next t) :
    s.params.valid = true ∧ t = advance s (nextRegs s.params s.regs (pins s) c) := by
  unfold runCycle at h
  split at h
  · exact ⟨by assumption, by simpa using h.symm⟩
  · cases h

end outcome

/-- The host command of an instruction at a state: its writer of the triple and its answer (R78 to R84). -/
def hostCommand (s : State) : Instr → HostCommand
  | .nop _ => { write := id, answer := noAnswer }
  | .setOff _ => { write := setP .off, answer := noAnswer }
  | .setOn _ => { write := setP .on, answer := noAnswer }
  | .toggle _ => { write := toggleP, answer := noAnswer }
  | .onDelay a =>
    { write := pendP s.params s.regs.cnt (clampDelay s.params a)
      answer := fun _ => some (zext32 (clampDelay s.params a)) }
  | .get _ => { write := id, answer := fun p => some (flagWord (p == .on)) }

/-- Every instruction's meaning is one cycle with its host command. -/
theorem exec_eq_runCycle (i : Instr) (s : State) : exec i s = runCycle s (hostCommand s i) := by
  cases i <;> rfl

/-- The host command that the port presents: none and a reserved opcode act on nothing (R46, R85). -/
def portCommand (s : State) : HostCommand :=
  match presented (pins s) with
  | .command i => hostCommand s i
  | _ => { write := id, answer := noAnswer }

/-- A step is one cycle with the host command on the port. -/
theorem step_eq_runCycle (s : State) : step s = runCycle s (portCommand s) := by
  unfold step portCommand
  generalize presented (pins s) = x
  cases x with
  | none => rfl
  | reserved w => rfl
  | command i => exact exec_eq_runCycle i s

/-- Inversion of a step: what it can do, once for all. -/
theorem step_next {s t : State} (h : step s = .next t) :
    s.params.valid = true ∧ t = advance s (nextRegs s.params s.regs (pins s) (portCommand s)) :=
  runCycle_next s t _ (step_eq_runCycle s ▸ h)

/-- Inversion of an instruction. -/
theorem exec_next {i : Instr} {s t : State} (h : exec i s = .next t) :
    s.params.valid = true ∧ t = advance s (nextRegs s.params s.regs (pins s) (hostCommand s i)) :=
  runCycle_next s t _ (exec_eq_runCycle i s ▸ h)

@[simp] theorem pins_cons (s : State) (i : Inputs) (is : List Inputs) (h : s.inputs = i :: is) : pins s = i := by
  simp [pins, h]

@[simp] theorem presented_noCommand (i : Inputs) (h : i.cmdValid = false) : presented i = .none := by
  simp [presented, h]

end Sys2Proof.Machine
end

