-- ==== Sys2Proof/Laws/Decode.lean ====
section
/-! SUPPORT. The small lemmas of the encoding (spec/30_encoding.md R47): a word is its two fields. -/

namespace Sys2Proof

/-- A bit of the word that two fields make. -/
theorem getLsbD_fields (op : CmdOp) (a : CmdArg) (k : Nat) :
    (op ++ a : CmdWord).getLsbD k = if k < 32 then a.getLsbD k else op.getLsbD (k - 32) :=
  (BitVec.getLsbD_append (x := op) (y := a)).trans (by cases h : decide (k < 32) <;> simp_all)

theorem opOf_append (op : CmdOp) (a : CmdArg) : opOf (op ++ a) = op := by
  apply BitVec.eq_of_getLsbD_eq
  intro k hk
  simp only [opOf, BitVec.getLsbD_extractLsb', hk, decide_true, Bool.true_and]
  rw [getLsbD_fields, if_neg (by omega), show 32 + k - 32 = k by omega]

theorem argOf_append (op : CmdOp) (a : CmdArg) : argOf (op ++ a) = a := by
  apply BitVec.eq_of_getLsbD_eq
  intro k hk
  simp only [argOf, BitVec.getLsbD_extractLsb', hk, decide_true, Bool.true_and]
  rw [getLsbD_fields, if_pos (by omega), Nat.zero_add]

/-- The two fields put together again are the word. -/
theorem op_append_arg (w : CmdWord) : (opOf w ++ argOf w : CmdWord) = w := by
  apply BitVec.eq_of_getLsbD_eq
  intro k hk
  rw [getLsbD_fields]
  split_ifs with h
  · simp [argOf, h]
  · simp [opOf, show k - 32 < 3 by omega, show 32 + (k - 32) = k by omega]

@[simp] theorem opOf_encode (i : Instr) : opOf (encode i) = i.op := opOf_append _ _

@[simp] theorem argOf_encode (i : Instr) : argOf (encode i) = i.arg := argOf_append _ _

end Sys2Proof
end

