-- ==== Sys2Proof/Laws/Timer.lean ====
section
/-! SUPPORT. The small lemmas of the modular arithmetic, the clamp and the channels (spec/00_scope.md R8, R10;
spec/40_shared_timer.md). -/

namespace Sys2Proof.Machine

theorem wrapAdd_lt (w x y : Nat) : wrapAdd w x y < 2 ^ w := Nat.mod_lt _ (Nat.two_pow_pos w)

theorem wrapSub_lt (w x y : Nat) : wrapSub w x y < 2 ^ w := Nat.mod_lt _ (Nat.two_pow_pos w)

/-- A W-bit value advanced by `d`, less the value itself, is `d`. -/
theorem wrapSub_wrapAdd {w c d : Nat} (hc : c < 2 ^ w) (hd : d < 2 ^ w) : wrapSub w (wrapAdd w c d) c = d := by
  unfold wrapSub wrapAdd
  rw [Nat.mod_eq_of_lt hc, Nat.mod_add_mod]
  have : c + d + (2 ^ w - c) = d + 2 ^ w := by omega
  rw [this, Nat.add_mod_right, Nat.mod_eq_of_lt hd]

/-- Two W-bit values differ by 0 exactly when they are equal. -/
theorem wrapSub_eq_zero {w x y : Nat} (hx : x < 2 ^ w) (hy : y < 2 ^ w) : wrapSub w x y = 0 ↔ x = y := by
  unfold wrapSub
  rw [Nat.mod_eq_of_lt hy]
  constructor
  · intro h
    rcases Nat.lt_or_ge x y with hlt | hge
    · rw [Nat.mod_eq_of_lt (by omega)] at h; omega
    · have : x + (2 ^ w - y) = (x - y) + 2 ^ w := by omega
      rw [this, Nat.add_mod_right, Nat.mod_eq_of_lt (by omega)] at h; omega
  · rintro rfl
    have : x + (2 ^ w - x) = 2 ^ w := by omega
    rw [this, Nat.mod_self]

/-- A tick brings the counter one closer to a target it has not reached. -/
theorem wrapSub_tick {w x y : Nat} (hx : x < 2 ^ w) (hy : y < 2 ^ w) (hne : x ≠ y) :
    wrapSub w x (wrapAdd w y 1) + 1 = wrapSub w x y := by
  unfold wrapSub wrapAdd
  have hpos : 0 < 2 ^ w := Nat.two_pow_pos w
  rw [Nat.mod_mod, Nat.mod_eq_of_lt hy]
  rcases Nat.lt_or_ge (y + 1) (2 ^ w) with h1 | h1
  · rw [Nat.mod_eq_of_lt h1]
    rcases Nat.lt_or_ge x y with hlt | hge
    · rw [Nat.mod_eq_of_lt (by omega), Nat.mod_eq_of_lt (by omega)]; omega
    · have e1 : x + (2 ^ w - (y + 1)) = (x - (y + 1)) + 2 ^ w := by omega
      have e2 : x + (2 ^ w - y) = (x - y) + 2 ^ w := by omega
      rw [e1, e2, Nat.add_mod_right, Nat.add_mod_right, Nat.mod_eq_of_lt (by omega), Nat.mod_eq_of_lt (by omega)]
      omega
  · have hy' : y + 1 = 2 ^ w := by omega
    rw [hy', Nat.mod_self, Nat.sub_zero, Nat.add_mod_right, Nat.mod_eq_of_lt hx, Nat.mod_eq_of_lt (by omega)]
    omega

/-- What a valid configuration gives (R8). -/
theorem Params.valid_iff (p : Params) : p.valid = true ↔
    2 ≤ p.w ∧ p.w ≤ 32 ∧ 0 < p.fTick ∧ 1 ≤ p.debounceTicks ∧ p.debounceTicks ≤ 2 ^ p.w - 1 ∧
      1 ≤ p.toneHalfCycles ∧ 0 < p.fClk := by
  simp [Params.valid, and_assoc]

/-- The clamp never exceeds the largest delay of a valid instance, and is at least one tick. -/
theorem clampDelay_bounds {p : Params} (h : p.valid = true) (a : CmdArg) :
    1 ≤ clampDelay p a ∧ clampDelay p a < 2 ^ p.w := by
  have hw := ((Params.valid_iff p).1 h).1
  have : 2 ^ 2 ≤ 2 ^ p.w := Nat.pow_le_pow_right (by omega) hw
  unfold clampDelay maxDelayTicks
  omega

/-- A value below the half-period fits the divider (R8's TD_WIDTH). -/
theorem lt_two_pow_tdWidth {p : Params} {v : Nat} (h : v < p.toneHalfCycles) : v < 2 ^ tdWidth p :=
  lt_of_lt_of_le h ((Nat.le_pow_clog (by omega) _).trans (Nat.pow_le_pow_right (by omega) (le_max_right _ _)))

theorem latchToneDiv_of_lt {p : Params} {v : Nat} (h : v < p.toneHalfCycles) : latchToneDiv p v = v :=
  Nat.mod_eq_of_lt (lt_two_pow_tdWidth h)

theorem latchToneDiv_lt (p : Params) (v : Nat) : latchToneDiv p v < 2 ^ tdWidth p :=
  Nat.mod_lt _ (Nat.two_pow_pos _)

/-- A channel fires exactly when it is armed and the counter has reached its target (R58). -/
theorem Channel.fires_iff (c : Channel) (cnt : Nat) : c.fires cnt = true ↔ c.mode = .armedCompare ∧ cnt = c.ccr := by
  simp [Channel.fires]

@[simp] theorem toggled_eq_on (x : PttState) : toggled x = .on ↔ x ≠ .on := by cases x <;> simp [toggled]

@[simp] theorem toggled_ne_pending (x : PttState) : toggled x ≠ .pending := by cases x <;> simp [toggled]

end Sys2Proof.Machine
end

