-- ==== Sys2Proof/Laws/Events.lean ====
section
/-! SUPPORT. What the events of a cycle can do, said once each: the debounce event (spec/41_debounce.md), the toggle
request, and the triple the host command meets (spec/44_cycle_step.md R96). -/

namespace Sys2Proof.Machine

variable (r : Regs) (i : Inputs)

theorem debounceEvent_accept : debounceEvent r i = .accept ↔ r.debState = .idle ∧ i.btnIn ≠ r.lineState := by
  unfold debounceEvent edge; cases r.debState <;> simp; split_ifs <;> simp_all

theorem debounceEvent_expire : debounceEvent r i = .expire ↔ r.debState = .captured ∧ fire0 r = true := by
  unfold debounceEvent; cases r.debState <;> simp <;> split_ifs <;> simp_all

theorem debounceEvent_ignore :
    debounceEvent r i = .ignore ↔ r.debState = .captured ∧ fire0 r = false ∧ i.btnIn ≠ r.lineState := by
  unfold debounceEvent edge; cases r.debState <;> simp <;> split_ifs <;> simp_all

theorem debounceEvent_quiet : debounceEvent r i = .quiet ↔
    (r.debState = .idle ∨ r.debState = .captured ∧ fire0 r = false) ∧ i.btnIn = r.lineState := by
  unfold debounceEvent edge; cases r.debState <;> simp; split_ifs <;> simp_all

theorem debToggle_iff : debToggle r i = true ↔ r.debState = .captured ∧ fire0 r = true ∧ r.debPol = .press := by
  simp [debToggle, debounceEvent_expire, and_assoc]

/-- The four cases of the triple that the host command meets. -/
theorem eventTriple_cases :
    (fire1 r = false ∧ debToggle r i = false ∧ eventTriple r i = startTriple r) ∨
    (fire1 r = true ∧ debToggle r i = false ∧ eventTriple r i = { p := .on, ch1 := r.ch1.disarm }) ∨
    (fire1 r = false ∧ debToggle r i = true ∧
      eventTriple r i = { p := toggled r.pttState, ch1 := r.ch1.disarm }) ∨
    (fire1 r = true ∧ debToggle r i = true ∧ eventTriple r i = { p := .off, ch1 := r.ch1.disarm }) := by
  unfold eventTriple debounceToggle delayFire
  cases fire1 r <;> cases debToggle r i <;> simp [setP, toggleP, toggled, startTriple, Channel.disarm]

/-- The events of a cycle hold channel 1's target. -/
@[simp] theorem eventTriple_ccr : (eventTriple r i).ch1.ccr = r.ch1.ccr := by
  rcases eventTriple_cases r i with h | h | h | h <;> simp [h.2.2]

/-- Where no event of the cycle acts on it, the host command meets the start-of-cycle triple. -/
theorem eventTriple_of_no_event (h1 : fire1 r = false) (h2 : debToggle r i = false) :
    eventTriple r i = startTriple r := by
  simp [eventTriple, debounceToggle, delayFire, h1, h2]

end Sys2Proof.Machine
end

