-- ==== Sys2Proof/Laws/PerInstr.lean ====
section
/-! SUPPORT. The statements made of each instruction as syntax. Family `OpcodeField`: the encoding of an instruction holds
its row's opcode in bits 34:32 and its argument, whole, in bits 31:0 (spec/30_encoding.md R47, R48), and a row's opcode is
never one of the reserved two (R50). -/

namespace Sys2Proof.Laws.OpcodeField

def Statement (i : Instr) : Prop :=
  opOf (encode i) = i.op ∧ argOf (encode i) = i.arg ∧ i.op ≠ 6#3 ∧ i.op ≠ 7#3

theorem nop (arg : CmdArg) : Statement (.nop arg) :=
  ⟨opOf_encode _, argOf_encode _, by simp [Instr.op], by simp [Instr.op]⟩
theorem setOff (arg : CmdArg) : Statement (.setOff arg) :=
  ⟨opOf_encode _, argOf_encode _, by simp [Instr.op], by simp [Instr.op]⟩
theorem setOn (arg : CmdArg) : Statement (.setOn arg) :=
  ⟨opOf_encode _, argOf_encode _, by simp [Instr.op], by simp [Instr.op]⟩
theorem toggle (arg : CmdArg) : Statement (.toggle arg) :=
  ⟨opOf_encode _, argOf_encode _, by simp [Instr.op], by simp [Instr.op]⟩
theorem onDelay (arg : CmdArg) : Statement (.onDelay arg) :=
  ⟨opOf_encode _, argOf_encode _, by simp [Instr.op], by simp [Instr.op]⟩
theorem get (arg : CmdArg) : Statement (.get arg) :=
  ⟨opOf_encode _, argOf_encode _, by simp [Instr.op], by simp [Instr.op]⟩

end Sys2Proof.Laws.OpcodeField
end

