-- ==== Sys2Proof/Laws/Run.lean ====
section
/-! SUPPORT. Runs of several cycles, and the port after a word is presented. -/

namespace Sys2Proof.Machine

@[simp] theorem runCycles_zero (s : State) : runCycles 0 s = .next s := rfl

/-- One cycle first, then the rest. -/
theorem runCycles_succ {s t : State} (n : Nat) (h : step s = .next t) : runCycles (n + 1) s = runCycles n t := by
  simp only [runCycles, Host.Core.run]
  rw [show Sys2Proof.core.step s = .next t from h]

/-- Some cycles first, then the rest. -/
theorem runCycles_add {s t : State} (m n : Nat) (h : runCycles m s = .next t) :
    runCycles (m + n) s = runCycles n t := by
  induction m generalizing s with
  | zero => simp at h; simp [h]
  | succ m ih =>
    rw [Nat.succ_add]
    cases hs : step s with
    | next u =>
      rw [runCycles_succ _ hs] at h
      rw [runCycles_succ _ hs]
      exact ih h
    | fault r => exact nomatch r
    | refused r =>
      have : runCycles (m + 1) s = .refused r := by
        simp only [runCycles, Host.Core.run]
        rw [show Sys2Proof.core.step s = .refused r from hs]
        rfl
      rw [this] at h; cases h

/-- A run keeps a property of states that each of its cycles keeps: `P rest s` speaks of the state and of the pins that are
still to come. -/
theorem runCycles_invariant {P : State → Prop} (is rest : List Inputs) (s : State) (hin : s.inputs = is ++ rest)
    (h0 : P s)
    (hstep : ∀ (u : State) (x : Inputs) (xs : List Inputs), x ∈ is → u.inputs = x :: xs → P u →
      ∃ v, step u = .next v ∧ v.inputs = u.inputs.tail ∧ P v) :
    ∃ t, runCycles is.length s = .next t ∧ t.inputs = rest ∧ P t := by
  induction is generalizing s with
  | nil => exact ⟨s, by simp, by simpa using hin, h0⟩
  | cons x xs ih =>
    obtain ⟨v, hv, hvin, hPv⟩ := hstep s x (xs ++ rest) (by simp) (by simpa using hin) h0
    have htail : v.inputs = xs ++ rest := by rw [hvin, hin]; rfl
    obtain ⟨t, ht, htin, hPt⟩ := ih v htail hPv (fun u y ys hy => hstep u y ys (by simp [hy]))
    exact ⟨t, by rw [List.length_cons, runCycles_succ _ hv]; exact ht, htin, hPt⟩

/-- A step of a valid instance, with the pins it reads. -/
theorem step_valid {s : State} (h : s.params.valid = true) :
    step s = .next (advance s (nextRegs s.params s.regs (pins s) (portCommand s))) := by
  rw [step_eq_runCycle, runCycle_valid _ _ h]

/-- A step of a valid instance in a cycle with neither reset nor command. -/
theorem step_noCommand {s : State} {i : Inputs} {is : List Inputs} (h : s.params.valid = true)
    (hin : s.inputs = i :: is) (hi : NoCommand i) :
    step s = .next (advance s (cycleRegs s.params s.regs i { write := id, answer := noAnswer })) := by
  rw [step_valid h, pins_cons s i is hin, nextRegs_live _ _ _ _ hi.1]
  simp [portCommand, hi.2, pins_cons s i is hin]

/-- The pins after a word is presented: that word, in a cycle without reset. -/
theorem pins_presentWord (s : State) (w : CmdWord) :
    (pins (presentWord s w)).word = w ∧ (pins (presentWord s w)).rst = false ∧
      (pins (presentWord s w)).cmdValid = true := by
  unfold presentWord
  cases s.inputs <;> simp [pins, Inputs.withCommand, Inputs.word, op_append_arg]

@[simp] theorem ticksIn_append (is js : List Inputs) : ticksIn (is ++ js) = ticksIn is + ticksIn js := by
  induction is with
  | nil => simp [ticksIn]
  | cons i is ih => simp [ticksIn, ih, Nat.add_assoc]

end Sys2Proof.Machine
end

