-- ==== Sys2Proof/Tests/Slice0.lean ====
section
/-! SUPPORT. The model's own tests: well-formedness smoke tests, words written out from the spec's encoding, one-step
vectors of spec/95_test_vectors.md (their ids are in the comments), and a witness for the hypotheses of each
obligation. -/

namespace Sys2Proof.Machine.Tests

/-! ### Well-formedness: one ill-formed term for each check of R8, R53 and R54 -/

theorem test_vector_params_valid : Params.vector.valid = true := by decide
theorem test_w_too_small : { Params.vector with w := 1, debounceTicks := 1 }.valid = false := by decide
theorem test_w_too_large : { Params.vector with w := 33 }.valid = false := by decide
theorem test_fTick_zero : { Params.vector with fTick := 0 }.valid = false := by decide
theorem test_debounce_zero : { Params.vector with debounceTicks := 0 }.valid = false := by decide
theorem test_debounce_too_large : { Params.vector with debounceTicks := 65536 }.valid = false := by decide
theorem test_tone_zero : { Params.vector with toneHalfCycles := 0 }.valid = false := by decide
theorem test_fClk_zero : { Params.vector with fClk := 0 }.valid = false := by decide
theorem test_debounce_largest : { Params.vector with debounceTicks := 65535 }.valid = true := by decide

theorem test_onDelay_needs_ticks : (ScriptLine.command .onDelay none).wellFormed = false := by decide
theorem test_onDelay_ticks_too_wide : (ScriptLine.command .onDelay (some 4294967296)).wellFormed = false := by decide
theorem test_nop_takes_no_ticks : (ScriptLine.command .nop (some 1)).wellFormed = false := by decide
theorem test_setOff_takes_no_ticks : (ScriptLine.command .setOff (some 1)).wellFormed = false := by decide
theorem test_setOn_takes_no_ticks : (ScriptLine.command .setOn (some 1)).wellFormed = false := by decide
theorem test_toggle_takes_no_ticks : (ScriptLine.command .toggle (some 1)).wellFormed = false := by decide
theorem test_get_takes_no_ticks : (ScriptLine.command .get (some 1)).wellFormed = false := by decide
theorem test_seconds_not_positive : (ScriptLine.onDelaySeconds 0).wellFormed = false := by decide
theorem test_onDelay_largest : (ScriptLine.command .onDelay (some 4294967295)).wellFormed = true := by decide

/-! ### Words written out bit by bit from R47's pattern: three `o`, then 32 `a` -/

theorem test_word_nop : decode 0b000_00000000000000000000000000000000#35 = .ok (.nop 0#32) := by decide
theorem test_word_setOff : decode 0b001_00000000000000000000000000000000#35 = .ok (.setOff 0#32) := by decide
theorem test_word_setOn : decode 0b010_00000000000000000000000000000000#35 = .ok (.setOn 0#32) := by decide
theorem test_word_toggle : decode 0b011_00000000000000000000000000000000#35 = .ok (.toggle 0#32) := by decide
theorem test_word_onDelay : decode 0b100_10000000000000000000000000000101#35 = .ok (.onDelay 0x80000005#32) := by decide
theorem test_word_get : decode 0b101_00000000000000000000000000000001#35 = .ok (.get 1#32) := by decide
theorem test_word_reserved6 : decode 0b110_00000000000000000000000000000000#35 = .error (.reservedOpcode 6#3) := by decide
theorem test_word_reserved7 : decode 0b111_00000000000000000000000000000000#35 = .error (.reservedOpcode 7#3) := by decide
/-- T-P8's word. -/
theorem test_encode_onDelay : encode (.onDelay 10#32) = 0x40000000A#35 := by decide
theorem test_table_word : decodeTableWord 40 0x500000000 = some (.get 0#32) := by decide
theorem test_table_word_reserved : decodeTableWord 40 0x700000000 = none := by decide
theorem test_table_word_too_wide : decodeTableWord 40 0x800000000 = none := by decide
theorem test_table_rows_disjoint :
    opcodeTable.Pairwise fun a b => a.pattern &&& b.mask ≠ b.pattern &&& a.mask := by decide

/-! ### One-step vectors -/

/-- A machine of the vector parameters. -/
def machine (r : Regs) (is : List Inputs) : State := { params := Params.vector, regs := r, inputs := is, cycle := 0 }

/-- The registers after one step. -/
def regsAfter : Host.Outcome State Fault Refusal → Option Regs
  | .next t => some t.regs
  | _ => none

/-- A row of pins with `rst = 0` and `tick = 1`. -/
abbrev row (btn : Level) (c : Option Instr) : Inputs := rowInputs false btn true c

def base : Regs := resetRegs false
def onRegs : Regs := { base with pttState := .on, toneOut := true }
def pendingRegs (cnt ccr : Nat) : Regs := { base with cnt := cnt, pttState := .pending, ch1 := ⟨.armedCompare, ccr⟩ }
def windowRegs (pol : Polarity) (line : Level) (cnt ccr : Nat) : Regs :=
  { base with cnt := cnt, debState := .captured, debPol := pol, lineState := line, ch0 := ⟨.armedCompare, ccr⟩ }

def after (r : Regs) (i : Inputs) : Option Regs := regsAfter (step (machine r [i]))
def afterExec (r : Regs) (i : Instr) : Option Regs := regsAfter (exec i (machine r [row r.lineState none]))

/-- T-P13. -/
theorem test_nop_holds_data :
    (afterExec { base with rspValid := true, rspData := 7#32 } (.nop 0xDEAD#32)).map (fun r => (r.rspValid, r.rspData)) =
      some (false, 7#32) := by decide
/-- T-P9: the delay fires and `SET_OFF` wins. -/
theorem test_setOff_beats_fire :
    (afterExec (pendingRegs 103 103) (.setOff 0#32)).map (fun r => (r.pttState, r.ch1)) =
      some (.off, ⟨.idle, 103⟩) := by decide
/-- T-N3. -/
theorem test_setOff_stops_tone :
    (afterExec { onRegs with toneDiv := 1 } (.setOff 0#32)).map (fun r => (r.toneOut, r.toneDiv)) =
      some (false, 0) := by decide
/-- T-P1. -/
theorem test_setOn_starts_tone :
    (afterExec base (.setOn 0#32)).map (fun r => (r.pttState, r.toneOut, r.toneDiv)) = some (.on, true, 0) := by decide
/-- T-P2: no restart. -/
theorem test_setOn_keeps_phase :
    (afterExec onRegs (.setOn 0#32)).map (fun r => (r.toneOut, r.toneDiv)) = some (true, 1) := by decide
/-- T-P6. -/
theorem test_toggle_from_pending :
    (afterExec (pendingRegs 50 60) (.toggle 0#32)).map (fun r => (r.pttState, r.ch1.mode)) = some (.on, .idle) := by decide
/-- T-P15: a debounce toggle and `TOGGLE` cancel. -/
theorem test_toggle_cancels_debounce_toggle :
    (after (windowRegs .press true 13 13) (row true (some (.toggle 0#32)))).map (·.pttState) = some .off := by decide
/-- T-P7: the line drops. -/
theorem test_onDelay_from_on :
    (afterExec { onRegs with cnt := 100, toneDiv := 1 } (.onDelay 5#32)).map
      (fun r => (r.pttState, r.ch1, r.rspValid, r.rspData, r.toneOut)) =
      some (.pending, ⟨.armedCompare, 105⟩, true, 5#32, false) := by decide
/-- T-CL7. -/
theorem test_onDelay_clamps :
    (afterExec base (.onDelay 0xFFFFFFFF#32)).map (fun r => (r.rspData, r.ch1.ccr)) = some (65535#32, 65535) := by decide
/-- T-P10. -/
theorem test_get_in_fire_cycle :
    (afterExec (pendingRegs 103 103) (.get 0#32)).map (fun r => (r.pttState, r.rspValid, r.rspData)) =
      some (.on, true, 1#32) := by decide
/-- T-P16: fire, then debounce toggle, then `GET`. -/
theorem test_get_after_fire_and_toggle :
    (after { windowRegs .press true 3 3 with pttState := .pending, ch1 := ⟨.armedCompare, 3⟩ }
      (row true (some (.get 0#32)))).map (fun r => (r.pttState, r.rspData)) = some (.off, 0#32) := by decide
/-- T-P14. -/
theorem test_reserved_acts_as_nop :
    after { onRegs with rspValid := true, rspData := 1#32 } { row false none with cmdValid := true, cmdOp := 6#3, cmdArg := 123#32 } =
      some { onRegs with cnt := 1, rspData := 1#32, toneDiv := 1 } := by decide
/-- T-T1. -/
theorem test_counter_wraps : (after { base with cnt := 0xFFFF } (row false none)).map (·.cnt) = some 0 := by decide
/-- T-T3. -/
theorem test_target_wraps :
    (afterExec { base with cnt := 0xFFFE } (.onDelay 3#32)).map (·.ch1.ccr) = some 1 := by decide
/-- T-T5: one-shot, although `cnt == ccr` still. -/
theorem test_idle_channel_never_fires :
    after { onRegs with cnt := 7, ch1 := ⟨.idle, 7⟩ } (rowInputs false false false none) =
      some { onRegs with cnt := 7, ch1 := ⟨.idle, 7⟩, toneDiv := 1 } := by decide
/-- T-D1. -/
theorem test_press_opens_window :
    (after { base with cnt := 10 } (row true none)).map (fun r => (r.debState, r.debPol, r.lineState, r.ch0)) =
      some (.captured, .press, true, ⟨.armedCompare, 13⟩) := by decide
/-- T-D3: an active-low button. -/
theorem test_active_low_press :
    (regsAfter (step { machine { base with lineState := true } [row false none] with
      params := { Params.vector with btnActiveLevel := false } })).map (·.debPol) = some .press := by decide
/-- T-D4. -/
theorem test_edge_in_window_sets_flag :
    (after (windowRegs .press true 1 3) (row false none)).map (fun r => (r.edgeIfg, r.lineState)) =
      some (true, true) := by decide
/-- T-D6: an edge in the expiry cycle is dropped. -/
theorem test_expiry_drops_edge :
    (after { windowRegs .press true 13 13 with edgeIfg := true } (row false none)).map
      (fun r => (r.debState, r.edgeIfg, r.lineState, r.pttState)) = some (.idle, false, false, .on) := by decide
/-- T-D7: a release window does not toggle. -/
theorem test_release_window_no_toggle :
    (after { windowRegs .release false 13 13 with pttState := .on, toneOut := true } (row false none)).map
      (fun r => (r.debState, r.pttState, r.toneDiv)) = some (.idle, .on, 1) := by decide
/-- T-N2: `TONE_HALF_CYCLES = 1` inverts in every cycle. -/
theorem test_tone_half_one :
    (regsAfter (step { machine onRegs [row false none] with params := { Params.vector with toneHalfCycles := 1 } })).map
      (fun r => (r.toneOut, r.toneDiv)) = some (false, 0) := by decide
/-- T-R1: reset beats `SET_ON` and the tick. -/
theorem test_reset_loses_command :
    after { onRegs with cnt := 9 } (rowInputs true false true (some (.setOn 0#32))) = some (resetRegs false) := by decide
/-- R8: `W = 33` is no instance. -/
theorem test_invalid_refused :
    step { machine base [row false none] with params := { Params.vector with w := 33 } } = .refused .invalidParameters := rfl
/-- `withFetchWord` puts exactly its word before the next step: `ON_DELAY 5` from reset. -/
theorem test_fetch_word_runs :
    (regsAfter (step (State.reset.withFetchWord 40 0x400000005))).map (fun r => (r.pttState, r.ch1, r.rspData)) =
      some (.pending, ⟨.armedCompare, 5⟩, 5#32) := by decide

/-! ### The host's side -/

/-- R53's form `<mnemonic> [<ticks>]    ; comment`, with a hexadecimal number. -/
theorem test_assemble_line :
    parseLine ['O', 'N', '_', 'D', 'E', 'L', 'A', 'Y', ' ', '0', 'x', 'F', 'f', ' ', ';', 'x'] =
      .ok (some (.command .onDelay (some 255))) := rfl
theorem test_assemble_wait : assemble Params.vector [['W', 'A', 'I', 'T', ' ', '2'], ['G', 'E', 'T']] =
    .ok [none, none, some (.get 0#32)] := rfl
theorem test_assemble_reserved_has_no_mnemonic : parseLine ['R', 'E', 'S'] = .error .unknownLine := rfl

/-- T-S1: 0.1 s at 1000 Hz is 100 ticks. -/
theorem test_seconds : secToTicks Params.vector (1 / 10) = some 100 := by
  have h : roundHalfUp (1 / 10 * Params.vector.fTick) = 100 := by
    show ⌊(1 / 10 * 1000 + 1 / 2 : Rat)⌋ = 100
    norm_num [Int.floor_eq_iff]
  rw [secToTicks, h, if_pos (by norm_num)]
  rfl
/-- T-S3: the tie rounds up. -/
theorem test_seconds_tie : secToTicks Params.vector (1 / 2000) = some 1 := by
  have h : roundHalfUp (1 / 2000 * Params.vector.fTick) = 1 := by
    show ⌊(1 / 2000 * 1000 + 1 / 2 : Rat)⌋ = 1
    norm_num [Int.floor_eq_iff]
  rw [secToTicks, h, if_pos (by norm_num)]
  rfl

/-! ### Witnesses: a concrete state and operands that meet all hypotheses of an obligation together -/

theorem witness_StepRunsThePresentedCommand :
    (pins (machine base [row false (some (.setOn 0#32))])).cmdValid = true ∧
    decode (pins (machine base [row false (some (.setOn 0#32))])).word = .ok (.setOn 0#32) := by decide
/-- Also for every other obligation whose hypothesis is that a step answers next. -/
theorem witness_StepKeepsInstanceAndTakesPins :
    step (machine base [row false none]) = .next { machine { base with cnt := 1 } [] with cycle := 1 } := rfl
theorem witness_ValidInstanceNeverStops : (machine base []).params.valid = true := by decide
/-- A cycle without reset and a reset cycle. -/
theorem witness_InvalidParametersRefused :
    ∀ rst ∈ [false, true],
      let s := { machine base [rowInputs rst false true none] with params := { Params.vector with w := 33 } }
      s.params.valid = false ∧ (pins s).rst = rst := by decide
theorem witness_IdlePortPinsIgnored : (row true none).cmdValid = false := by decide
/-- Also for `CommandInResetCycleIsLost` and the second clause of `StepKeepsInvariants`. -/
theorem witness_ResetCycleLatchesResetValues :
    (machine onRegs [rowInputs true true true none]).params.valid = true ∧
    (pins (machine onRegs [rowInputs true true true none])).rst = true := by decide
theorem witness_ButtonHeldThroughResetIsQuiet :
    (machine onRegs (rowInputs true true true none :: ([row true none] ++ []))).params.valid = true ∧
    (rowInputs true true true none).rst = true ∧ ∀ x ∈ [row true none], NoCommand x ∧ x.btnIn = true := by decide
/-- For every obligation whose hypothesis is `Live`, with and without INV5, and with an idle port. -/
theorem witness_Live :
    Live (machine base [row false none]) ∧ Inv5 Params.vector base ∧ (pins (machine base [row false none])).cmdValid = false := by
  decide
theorem witness_SetOnWhileOnIsNop :
    Live (machine onRegs [row false none]) ∧ Inv2 onRegs ∧ onRegs.pttState = .on ∧
    debToggle onRegs (pins (machine onRegs [row false none])) = false := by decide
/-- For `ToggleResult` and `ToneRunsWhileOn`: the cycle of log entry 12, in which a debounce toggle and `TOGGLE` cancel from
`ON`, in the last cycle of a half-period and in one before it. -/
theorem witness_CancellingTogglesFromOn :
    ∀ d ∈ [0, 1],
      let s := machine { windowRegs .press true 3 3 with pttState := .on, toneOut := true, toneDiv := d }
        [row true (some (.toggle 0#32))]
      Live s ∧ Inv5 s.params s.regs ∧ s.regs.pttState = .on ∧ debToggle s.regs (pins s) = true ∧
      eventState s.regs (pins s) = .off ∧ presented (pins s) = .command (.toggle 0#32) ∧
      (regsAfter (step s)).map (·.pttState) = some .on := by decide
/-- The model's choice of log entry 12 at that cycle, no value of the spec: the wave runs on, `tone_div` 0 to 1. -/
theorem test_cancelling_toggles_keep_phase :
    (after { windowRegs .press true 3 3 with pttState := .on, toneOut := true } (row true (some (.toggle 0#32)))).map
      (fun r => (r.pttState, r.toneOut, r.toneDiv)) = some (.on, true, 1) := by decide
theorem witness_ReservedOpcodeActsAsNop_6 :
    Live (machine base [{ row false none with cmdValid := true, cmdOp := 6#3 }]) := by decide
theorem witness_ReservedOpcodeActsAsNop_7 :
    Live (machine base [{ row false none with cmdValid := true, cmdOp := 7#3 }]) := by decide
/-- Both ends of the clamp: 0, and the first argument at the upper end. -/
theorem witness_DelayClamp : Params.vector.valid = true ∧ 2 ^ Params.vector.w - 1 ≤ (65535#32).toNat := by decide
/-- The three cases of `ResponseRegister`. -/
theorem witness_ResponseRegister :
    presented (row false (some (.onDelay 0#32))) = .command (.onDelay 0#32) ∧
    presented (row false (some (.get 0#32))) = .command (.get 0#32) ∧ presented (row false none) = .none ∧
    Live (machine base [row false (some (.onDelay 0#32))]) ∧ Live (machine base [row false (some (.get 0#32))]) := by decide
/-- The four cases of `eventState` in `HostCommandWritesLast`. -/
theorem witness_HostCommandWritesLast :
    (fire1 (pendingRegs 3 3) = true ∧ debToggle (pendingRegs 3 3) (row false none) = false) ∧
    (fire1 (windowRegs .press true 3 3) = false ∧ debToggle (windowRegs .press true 3 3) (row true none) = true) ∧
    (let r := { windowRegs .press true 3 3 with pttState := .pending, ch1 := ⟨.armedCompare, 3⟩ }
     fire1 r = true ∧ debToggle r (row true none) = true) ∧
    fire1 base = false ∧ debToggle base (row false none) = false := by decide
theorem witness_DelayFireAssertsOn :
    let s := machine (pendingRegs 103 103) [row false none]
    Live s ∧ (pins s).cmdValid = false ∧ debToggle s.regs (pins s) = false ∧
      s.regs.ch1.mode = .armedCompare ∧ s.regs.cnt = s.regs.ch1.ccr := by decide
/-- The three clauses of `DebounceToggleFlipsTheState`; the second state is also `TwoTogglesInOneCycleCancel`'s. -/
theorem witness_DebounceToggleFlipsTheState :
    (let s := machine { windowRegs .press true 3 3 with pttState := .pending, ch1 := ⟨.armedCompare, 3⟩ } [row true none]
     Live s ∧ (pins s).cmdValid = false ∧ debToggle s.regs (pins s) = true ∧ fire1 s.regs = true) ∧
    (let s := machine { windowRegs .press true 3 3 with pttState := .on } [row true none]
     Live s ∧ (pins s).cmdValid = false ∧ debToggle s.regs (pins s) = true ∧ fire1 s.regs = false) ∧
    (let s := machine (windowRegs .press true 3 3) [row true none]
     Live s ∧ (pins s).cmdValid = false ∧ debToggle s.regs (pins s) = true ∧ fire1 s.regs = false) := by decide
theorem witness_TransmitStartsOnlyForCause :
    (∃ t, step (machine base [row false (some (.setOn 0#32))]) = .next t ∧ pttOut t.regs = true) ∧ pttOut base = false :=
  ⟨⟨_, rfl, by decide⟩, by decide⟩
theorem witness_PendingOnlyByOnDelay :
    ∃ t, step (machine base [row false (some (.onDelay 1#32))]) = .next t ∧ t.regs.pttState = .pending :=
  ⟨_, rfl, by decide⟩
theorem witness_CounterCountsTicks :
    (machine { base with cnt := 0xFFFF } ([row false none] ++ [])).params.valid = true ∧ 0xFFFF < 2 ^ Params.vector.w ∧
    ∀ x ∈ [row false none], x.rst = false := by decide
theorem witness_DebounceIndependentOfPttSide :
    (∃ t, exec (.setOn 0#32) (machine base [row true none]) = .next t) ∧
    (∃ t, exec (.get 0#32) (machine base [row true none]) = .next t) ∧
    (∃ t, step (machine base [row true none]) = .next t) ∧
    (∃ t, step (machine onRegs [row true (some (.setOff 0#32))]) = .next t) ∧ SameTimerAndDebounce base onRegs :=
  ⟨⟨_, rfl⟩, ⟨_, rfl⟩, ⟨_, rfl⟩, ⟨_, rfl⟩, by decide⟩

/-- A proper beginning of a short list is one of its `inits`, so a claim about all of them can be decided. -/
theorem of_inits {is : List Inputs} {P : List Inputs → Prop} (h : ∀ q ∈ is.inits, q ≠ is → P q) (q : List Inputs)
    (hq : q <+: is) (hne : q ≠ is) : P q := h q ((List.mem_inits q is).2 hq) hne

/-- `ON_DELAY 2` whose second tick is in the cycle after (fire next), and one tick short of it. -/
theorem witness_DelayRunsItsTicks :
    let i₀ := row false (some (.onDelay 2#32))
    (∀ is, is = [row false none] ∨ is = [rowInputs false false false none] →
      let s := machine base (i₀ :: (is ++ row false none :: []))
      s.params.valid = true ∧ s.regs.cnt < 2 ^ s.params.w ∧ i₀.rst = false ∧ presented i₀ = .command (.onDelay 2#32) ∧
      (∀ x ∈ is ++ [row false none], NoCommand x) ∧ s.regs.debState = .idle ∧
      (∀ x ∈ i₀ :: (is ++ [row false none]), x.btnIn = s.regs.lineState) ∧
      (∀ q, q <+: is → q ≠ is → ticksIn (i₀ :: q) < clampDelay s.params 2#32)) ∧
    ticksIn [i₀, row false none] = clampDelay Params.vector 2#32 := by
  refine ⟨?_, by decide⟩
  rintro is (rfl | rfl)
  · exact ⟨by decide, by decide, by decide, by decide, by decide, by decide, by decide, of_inits (by decide)⟩
  · exact ⟨by decide, by decide, by decide, by decide, by decide, by decide, by decide, of_inits (by decide)⟩

theorem witness_SetOffCancelsForGood :
    let i₀ := row false (some (.setOff 0#32))
    let s := machine (pendingRegs 3 3) (i₀ :: ([row false none] ++ []))
    s.params.valid = true ∧ i₀.rst = false ∧ presented i₀ = .command (.setOff 0#32) ∧
    (∀ x ∈ [row false none], NoCommand x) ∧ s.regs.debState = .idle ∧
    ∀ x ∈ i₀ :: [row false none], x.btnIn = s.regs.lineState := by decide
theorem witness_EdgeOpensWindow :
    let s := machine base [row true none]
    Live s ∧ s.regs.debState = .idle ∧ (pins s).btnIn ≠ s.regs.lineState ∧ (pins s).cmdValid = false ∧
    fire1 s.regs = false := by decide
theorem witness_EdgeInsideWindowIsIgnored :
    let s := machine (windowRegs .press true 1 3) [row false none]
    Live s ∧ s.regs.debState = .captured ∧ fire0 s.regs = false ∧ (pins s).btnIn ≠ s.regs.lineState ∧
    (pins s).cmdValid = false ∧ fire1 s.regs = false := by decide
/-- Both polarities of `WindowExpiry`. -/
theorem witness_WindowExpiry :
    ∀ pol ∈ [Polarity.press, Polarity.release],
      let s := machine (windowRegs pol true 3 3) [row true none]
      Live s ∧ s.regs.debState = .captured ∧ s.regs.ch0.mode = .armedCompare ∧ s.regs.cnt = s.regs.ch0.ccr ∧
      (pins s).cmdValid = false ∧ fire1 s.regs = false := by decide
/-- Both cases of `QuietDebounceCycle`. -/
theorem witness_QuietDebounceCycle :
    (Live (machine base [row false none]) ∧ (row false none).btnIn = base.lineState ∧ base.debState = .idle) ∧
    (let s := machine (windowRegs .press true 1 3) [row true none]
     Live s ∧ (pins s).btnIn = s.regs.lineState ∧ s.regs.debState = .captured ∧ fire0 s.regs = false) := by decide
/-- A press window of three ticks that expires in the cycle after `is`, and one that does not yet; the line bounces. -/
theorem witness_WindowRunsItsTicks :
    let i₀ := row true none
    (∀ is, is = [row false none, row true none] ∨ is = [row false none] →
      let s := machine base (i₀ :: (is ++ row true none :: []))
      s.params.valid = true ∧ s.regs.cnt < 2 ^ s.params.w ∧ (∀ x ∈ i₀ :: (is ++ [row true none]), NoCommand x) ∧
      s.regs.debState = .idle ∧ i₀.btnIn ≠ s.regs.lineState ∧ s.regs.ch1.mode = .idle ∧
      (∀ q, q <+: is → q ≠ is → ticksIn (i₀ :: q) < s.params.debounceTicks)) ∧
    ticksIn [i₀, row false none, row true none] = Params.vector.debounceTicks := by
  refine ⟨?_, by decide⟩
  rintro is (rfl | rfl)
  · exact ⟨by decide, by decide, by decide, by decide, by decide, by decide, of_inits (by decide)⟩
  · exact ⟨by decide, by decide, by decide, by decide, by decide, by decide, of_inits (by decide)⟩
theorem witness_AbsorbedChangeOpensNoWindow :
    let s := machine (windowRegs .release false 3 3) [row true none, row true none]
    s.params.valid = true ∧ (row true none).rst = false ∧ s.regs.debState = .captured ∧ fire0 s.regs = true ∧
    (row true none).btnIn ≠ s.regs.lineState := by decide
/-- Both clauses of `NoTicksNoProgress`: an open window, and a pending delay one tick short of its target. -/
theorem witness_NoTicksNoProgress :
    let i := rowInputs false true false none
    (let s := machine (windowRegs .press true 2 3) ([i] ++ [])
     s.params.valid = true ∧ (∀ x ∈ [i], x.rst = false ∧ x.tick = false) ∧
     s.regs.debState = .captured ∧ fire0 s.regs = false) ∧
    (let s := machine (pendingRegs 2 3) ([i] ++ [])
     s.params.valid = true ∧ s.regs.cnt < 2 ^ s.params.w ∧ (∀ x ∈ [i], NoCommand x ∧ x.tick = false) ∧
     s.regs.pttState = .pending ∧ fire1 s.regs = false ∧ fire0 s.regs = false) := by decide
theorem witness_ToneStartsHigh :
    Live (machine base [row false (some (.setOn 0#32))]) ∧ base.pttState ≠ .on ∧
    (after base (row false (some (.setOn 0#32)))).map (·.pttState) = some .on := by decide
/-- Both clauses of `ToneRunsWhileOn`: the last cycle of a half-period, and one before it. -/
theorem witness_ToneRunsWhileOn :
    ∀ d ∈ [0, 1],
      let s := machine { onRegs with toneDiv := d } [row false none]
      Live s ∧ Inv5 s.params s.regs ∧ s.regs.pttState = .on ∧ (regsAfter (step s)).map (·.pttState) = some .on := by decide
theorem witness_ToneIsSquareWave :
    let s := machine onRegs ([row false none, row false none] ++ [])
    s.params.valid = true ∧ (∀ x ∈ [row false none, row false none], NoCommand x ∧ x.btnIn = s.regs.lineState) ∧
    s.regs.debState = .idle ∧ s.regs.pttState = .on ∧ s.regs.ch1.mode = .idle ∧ s.regs.toneDiv = 0 := by decide
/-- A good state with a window open, a delay pending and an edge ignored. -/
theorem witness_StepKeepsInvariants :
    Inv (machine { windowRegs .press true 1 3 with pttState := .pending, ch1 := ⟨.armedCompare, 3⟩, edgeIfg := true }
      [row true none]) := by decide
/-- Both bounds of the rounded ticks (1 and `2^W - 1`), a whole number of ticks, and a rejected request. -/
theorem witness_SecondsConversion :
    Params.vector.valid = true ∧ (0 : Rat) ≤ 0 ∧ (0 : Rat) < 1 / 2000 ∧
    (1 / 2000 * Params.vector.fTick + 1 / 2 : Rat).floor = 1 ∧
    (65535 / 1000 * Params.vector.fTick + 1 / 2 : Rat).floor = 2 ^ Params.vector.w - 1 ∧
    (1 / 10 * Params.vector.fTick : Rat) = (100 : Nat) := by
  refine ⟨by decide, le_refl _, by norm_num, ?_, ?_, ?_⟩
  · show ⌊(1 / 2000 * 1000 + 1 / 2 : Rat)⌋ = 1
    norm_num [Int.floor_eq_iff]
  · show ⌊(65535 / 1000 * 1000 + 1 / 2 : Rat)⌋ = 2 ^ 16 - 1
    norm_num [Int.floor_eq_iff]
  · show (1 / 10 * 1000 : Rat) = (100 : Nat)
    norm_num
/-- Each bounded clause of `ScriptLinesExpand` at its boundary. -/
theorem witness_ScriptLinesExpand :
    4294967295 < 2 ^ 32 ∧ 2 ^ 32 ≤ 4294967296 ∧ Mnemonic.get ≠ .onDelay ∧ (0 : Rat) < 1 ∧ (0 : Rat) ≤ 0 := by decide

end Sys2Proof.Machine.Tests
end

/-! PROOFS. The statements of spec/00_scope.md: the configurations that are no instance of the block (R8). -/

namespace Sys2Proof.Machine

/-- A command of an invalid configuration is refused: its meaning is one cycle, and the cycle is refused (R8). -/
theorem exec_invalid {s : State} (h : s.params.valid = false) (i : Instr) :
    exec i s = .refused .invalidParameters :=
  calc exec i s
    _ = runCycle s (hostCommand s i) := exec_eq_runCycle i s
    _ = .refused .invalidParameters := runCycle_invalid s (hostCommand s i) h

/-- A step of an invalid configuration is refused, whatever the pins hold: `rst` is read only after the check of R8
(log entry 4). -/
theorem step_invalid {s : State} (h : s.params.valid = false) : step s = .refused .invalidParameters :=
  calc step s
    _ = runCycle s (portCommand s) := step_eq_runCycle s
    _ = .refused .invalidParameters := runCycle_invalid s (portCommand s) h

/-- Settles O8: a step and every command are one cycle each, and a cycle of an invalid configuration is refused. -/
theorem invalidParametersRefused : Obligations.InvalidParametersRefused :=
  fun _ h => ⟨step_invalid h, exec_invalid h⟩

end Sys2Proof.Machine

/-! PROOFS. The statements of spec/30_encoding.md: the command word and its decoder (R47, R48, R50, R51), the command
port (R46, R49), the response register (R52), and the lines of a command script (R53, R54). -/

namespace Sys2Proof

/-! ### The command word -/

/-- R48 gives a command to every opcode but the two reserved ones. -/
theorem op_reserved_of_ne : ∀ {op : CmdOp},
    op ≠ 0#3 → op ≠ 1#3 → op ≠ 2#3 → op ≠ 3#3 → op ≠ 4#3 → op ≠ 5#3 → op = 6#3 ∨ op = 7#3 := by decide

/-- All that the decoder can do: a command made of the word's two fields, or the error that names the word's reserved
opcode. -/
theorem decode_cases (w : CmdWord) :
    (∃ i, decode w = .ok i ∧ i.op = opOf w ∧ i.arg = argOf w) ∨
    (decode w = .error (.reservedOpcode (opOf w)) ∧ (opOf w = 6#3 ∨ opOf w = 7#3)) := by
  unfold decode
  split
  case h_7 h0 h1 h2 h3 h4 h5 =>
    exact .inr ⟨rfl, op_reserved_of_ne h0 h1 h2 h3 h4 h5⟩
  all_goals
    rename_i hop
    exact .inl ⟨_, rfl, hop.symm, rfl⟩

theorem encode_of_fields {i : Instr} {w : CmdWord} (hop : i.op = opOf w) (harg : i.arg = argOf w) : encode i = w := by
  rw [encode, hop, harg, op_append_arg]

theorem decode_encode (i : Instr) : decode (encode i) = .ok i := by
  cases i <;> simp [decode, Instr.op, Instr.arg]

/-- The decoder inverts the encoder, on both sides. -/
theorem decode_eq_ok_iff {w : CmdWord} {i : Instr} : decode w = .ok i ↔ encode i = w := by
  constructor
  · intro h
    obtain ⟨j, hj, hop, harg⟩ | ⟨herr, -⟩ := decode_cases w
    · obtain rfl : j = i := Except.ok.inj (hj.symm.trans h)
      exact encode_of_fields hop harg
    · cases herr.symm.trans h
  · rintro rfl
    exact decode_encode i

theorem op_of_decode {w : CmdWord} {i : Instr} (h : decode w = .ok i) : i.op = opOf w := by
  rw [← decode_eq_ok_iff.1 h, opOf_encode]

/-- No command has a reserved opcode (R50). -/
theorem op_not_reserved (i : Instr) : i.op ≠ 6#3 ∧ i.op ≠ 7#3 := by
  cases i <;> simp [Instr.op]

theorem decode_eq_error_iff {w : CmdWord} {op : CmdOp} :
    decode w = .error (.reservedOpcode op) ↔ opOf w = op ∧ (op = 6#3 ∨ op = 7#3) := by
  obtain ⟨i, hi, hop, -⟩ | ⟨herr, hres⟩ := decode_cases w
  · obtain ⟨h6, h7⟩ := op_not_reserved i
    constructor
    · intro h
      cases hi.symm.trans h
    · rintro ⟨rfl, h | h⟩
      · exact absurd (hop.trans h) h6
      · exact absurd (hop.trans h) h7
  · rw [herr]
    constructor
    · intro h
      cases h
      exact ⟨rfl, hres⟩
    · rintro ⟨rfl, -⟩
      rfl

/-- Settles O1, from the inversion of the decoder (`decode_cases`) and its value on an encoded command
(`decode_encode`). -/
theorem decodeAndEncodeAgree : Obligations.DecodeAndEncodeAgree :=
  fun _ => ⟨fun _ => decode_eq_ok_iff, fun _ => decode_eq_error_iff⟩

/-! ### The opcode table -/

/-- The mask that every row of the opcode table has: all of `op`, nothing of `arg` (R48). -/
def opMask : CmdWord := 7#3 ++ 0#32

theorem and_opMask (w : CmdWord) : w &&& opMask = opOf w ++ 0#32 := by
  have hones : opOf w &&& 7#3 = opOf w := BitVec.and_allOnes
  calc w &&& opMask
    _ = (opOf w ++ argOf w : CmdWord) &&& (7#3 ++ 0#32 : CmdWord) := by rw [op_append_arg, opMask]
    _ = (opOf w &&& 7#3) ++ (argOf w &&& 0#32) := BitVec.and_append
    _ = opOf w ++ 0#32 := by rw [hones, BitVec.and_zero]

/-- Each row of the opcode table is the row of a command: its mnemonic, its opcode above a zero argument, and the
mask of the opcode. -/
theorem exists_instr_of_row {row : OpcodeRow} (h : row ∈ opcodeTable) :
    ∃ j : Instr, row = { mnemonic := j.mnemonic, pattern := j.op ++ 0#32, mask := opMask } := by
  simp only [opcodeTable, List.mem_cons, List.not_mem_nil, or_false] at h
  rcases h with rfl | rfl | rfl | rfl | rfl | rfl
  · exact ⟨.nop 0#32, rfl⟩
  · exact ⟨.setOff 0#32, rfl⟩
  · exact ⟨.setOn 0#32, rfl⟩
  · exact ⟨.toggle 0#32, rfl⟩
  · exact ⟨.onDelay 0#32, rfl⟩
  · exact ⟨.get 0#32, rfl⟩

theorem mnemonic_eq_iff_op_eq (i j : Instr) : i.mnemonic = j.mnemonic ↔ i.op = j.op := by
  cases i <;> cases j <;> simp [Instr.mnemonic, Instr.op]

/-- A row of the table admits exactly the words with its opcode. -/
theorem admits_iff (m : String) (op : CmdOp) (w : CmdWord) :
    OpcodeRow.admits { mnemonic := m, pattern := op ++ 0#32, mask := opMask } w = true ↔ opOf w = op := by
  rw [OpcodeRow.admits, beq_iff_eq, and_opMask]
  constructor
  · intro h
    rw [← opOf_append (opOf w) 0#32, h, opOf_append]
  · rintro rfl
    rfl

/-- Every word whose opcode is not reserved decodes to a command with that opcode (R51). -/
theorem exists_decode_of_not_reserved {w : CmdWord} (h6 : opOf w ≠ 6#3) (h7 : opOf w ≠ 7#3) :
    ∃ i, decode w = .ok i ∧ i.op = opOf w := by
  obtain ⟨i, hi, hop, -⟩ | ⟨-, h | h⟩ := decode_cases w
  · exact ⟨i, hi, hop⟩
  · exact absurd h h6
  · exact absurd h h7

/-- Settles O2: both sides say that the word's opcode is the row's. -/
theorem opcodeRowsDecodeToTheirMnemonic : Obligations.OpcodeRowsDecodeToTheirMnemonic := by
  intro row hrow w
  obtain ⟨j, rfl⟩ := exists_instr_of_row hrow
  rw [admits_iff]
  constructor
  · intro hw
    obtain ⟨h6, h7⟩ := op_not_reserved j
    obtain ⟨i, hi, hop⟩ := exists_decode_of_not_reserved (hw ▸ h6) (hw ▸ h7)
    exact ⟨i, hi, (mnemonic_eq_iff_op_eq i j).2 (hop.trans hw)⟩
  · rintro ⟨i, hi, hm⟩
    exact (op_of_decode hi).symm.trans ((mnemonic_eq_iff_op_eq i j).1 hm)

end Sys2Proof

namespace Sys2Proof.Machine

/-! ### The response register -/

theorem portCommand_command {s : State} {i : Instr} (h : presented (pins s) = .command i) :
    portCommand s = hostCommand s i := by
  simp [portCommand, h]

theorem portCommand_none {s : State} (h : presented (pins s) = .none) :
    portCommand s = { write := id, answer := noAnswer } := by
  simp [portCommand, h]

theorem portCommand_reserved {s : State} {w : CmdWord} (h : presented (pins s) = .reserved w) :
    portCommand s = { write := id, answer := noAnswer } := by
  simp [portCommand, h]

/-- Phase 4 of R95, for every command: the response register takes the answer that the command on the port computes from
the state the cycle ends in, and holds its data where there is none. -/
theorem step_response {s : State} (h : Live s) : ∃ t, step s = .next t ∧
    t.regs.rspValid = ((portCommand s).answer t.regs.pttState).isSome ∧
    t.regs.rspData = ((portCommand s).answer t.regs.pttState).getD s.regs.rspData := by
  obtain ⟨hvalid, hrst⟩ := h
  exact ⟨_, step_valid hvalid, by simp [nextRegs_live _ _ _ _ hrst], by simp [nextRegs_live _ _ _ _ hrst]⟩

/-- `zext_32` loses nothing of a clamped tick count, since `W <= 32` (R8, R52). -/
theorem zext32_clampDelay_toNat {p : Params} (h : p.valid = true) (a : CmdArg) :
    (zext32 (clampDelay p a)).toNat = clampDelay p a := by
  obtain ⟨-, hw, -⟩ := (Params.valid_iff p).1 h
  have hpow : 2 ^ p.w ≤ 2 ^ 32 := Nat.pow_le_pow_right (by decide) hw
  exact Nat.mod_eq_of_lt ((clampDelay_bounds h a).2.trans_le hpow)

theorem flagWord_eq_ite (x : PttState) : flagWord (x == .on) = if x = .on then 1#32 else 0#32 := by
  cases x <;> rfl

/-- Settles O22: `step_response` with the answer of each command on the port. -/
theorem responseRegister : Obligations.ResponseRegister := by
  intro s hlive
  obtain ⟨t, hstep, hvalid, hdata⟩ := step_response hlive
  refine ⟨t, hstep, ?_⟩
  cases hport : presented (pins s) with
  | none =>
    rw [portCommand_none hport] at hvalid hdata
    exact ⟨hvalid, hdata⟩
  | reserved w =>
    rw [portCommand_reserved hport] at hvalid hdata
    exact ⟨hvalid, hdata⟩
  | command i =>
    rw [portCommand_command hport] at hvalid hdata
    cases i with
    | onDelay a =>
      obtain ⟨hlow, hhigh⟩ := clampDelay_bounds hlive.1 a
      have hword : t.regs.rspData = zext32 (clampDelay s.params a) := hdata
      exact ⟨hvalid, by rw [hword, zext32_clampDelay_toNat hlive.1], hlow, Nat.le_sub_one_of_lt hhigh⟩
    | get a => exact ⟨hvalid, hdata.trans (flagWord_eq_ite _)⟩
    | nop a => exact ⟨hvalid, hdata⟩
    | setOff a => exact ⟨hvalid, hdata⟩
    | setOn a => exact ⟨hvalid, hdata⟩
    | toggle a => exact ⟨hvalid, hdata⟩

/-! ### The command port -/

/-- An instruction acts only through its host command. -/
theorem exec_congr {s : State} {i j : Instr} (h : hostCommand s i = hostCommand s j) : exec i s = exec j s := by
  rw [exec_eq_runCycle, exec_eq_runCycle, h]

/-- Settles O4: the host commands of these five instructions do not mention the argument. -/
theorem argumentIgnoredButByOnDelay : Obligations.ArgumentIgnoredButByOnDelay :=
  fun _ _ _ => ⟨exec_congr rfl, exec_congr rfl, exec_congr rfl, exec_congr rfl, exec_congr rfl⟩

theorem presented_command {i : Inputs} {c : Instr} (hvalid : i.cmdValid = true) (hword : decode i.word = .ok c) :
    presented i = .command c := by
  simp [presented, hvalid, hword]

/-- Settles O5: the port presents the decoded command, and a step is one cycle with the presented command. -/
theorem stepRunsThePresentedCommand : Obligations.StepRunsThePresentedCommand := by
  intro s i hvalid hword
  rw [step_eq_runCycle, portCommand_command (presented_command hvalid hword), exec_eq_runCycle]

/-- The pins of the command port reach a cycle only through its host command. -/
theorem runCycle_portPins (s : State) (i : Inputs) (is : List Inputs) (o : CmdOp) (a : CmdArg) (c : HostCommand) :
    runCycle { s with inputs := { i with cmdOp := o, cmdArg := a } :: is } c =
      runCycle { s with inputs := i :: is } c := rfl

/-- A step with `cmd_valid = 0` is the cycle of the idle port (R46). -/
theorem step_idlePort (s : State) {i : Inputs} (is : List Inputs) (h : i.cmdValid = false) :
    step { s with inputs := i :: is } =
      runCycle { s with inputs := i :: is } { write := id, answer := noAnswer } := by
  have hport : presented (pins { s with inputs := i :: is }) = .none := presented_noCommand i h
  rw [step_eq_runCycle, portCommand_none hport]

/-- Settles O9: both steps are the cycle of the idle port, which does not read the two pins. -/
theorem idlePortPinsIgnored : Obligations.IdlePortPinsIgnored := by
  intro s i is o a h
  have h' : { i with cmdOp := o, cmdArg := a }.cmdValid = false := h
  rw [step_idlePort s is h, step_idlePort s is h']
  exact (runCycle_portPins s i is o a _).symm

/-! ### Command scripts -/

/-- R53 for a line without ticks. -/
theorem wellFormed_command_none (m : Mnemonic) : (ScriptLine.command m none).wellFormed = true ↔ m ≠ .onDelay := by
  cases m <;> simp [ScriptLine.wellFormed]

/-- R53 for a line with ticks. -/
theorem wellFormed_command_some (m : Mnemonic) (n : Nat) :
    (ScriptLine.command m (some n)).wellFormed = true ↔ m = .onDelay ∧ n < 2 ^ 32 := by
  cases m <;> simp [ScriptLine.wellFormed]

/-- R54 for a delay in seconds. -/
theorem wellFormed_onDelaySeconds (q : Rat) : (ScriptLine.onDelaySeconds q).wellFormed = true ↔ 0 < q := by
  simp [ScriptLine.wellFormed]

section expandLine
variable (p : Params)

theorem expandLine_illFormed {l : ScriptLine} (h : ¬ l.wellFormed = true) : expandLine p l = .error .illFormed := by
  simp [expandLine, h]

theorem expandLine_command {m : Mnemonic} {ticks : Option Nat} (h : (ScriptLine.command m ticks).wellFormed = true) :
    expandLine p (.command m ticks) = .ok [some (commandOf m (BitVec.ofNat 32 (ticks.getD 0)))] := by
  simp [expandLine, h]

theorem expandLine_setState (on : Bool) :
    expandLine p (.setState on) = .ok [some (if on then .setOn 0#32 else .setOff 0#32)] := by
  cases on <;> rfl

theorem expandLine_wait (n : Nat) : expandLine p (.wait n) = .ok (List.replicate n none) := rfl

theorem expandLine_onDelaySeconds {q : Rat} {i : Instr} (hq : 0 < q) (hi : delayCommand p q = some i) :
    expandLine p (.onDelaySeconds q) = .ok [some i] := by
  simp [expandLine, (wellFormed_onDelaySeconds q).2 hq, hi]

/-- The host has a delay command for every request above 0 seconds (R86). -/
theorem exists_delayCommand {q : Rat} (hq : 0 < q) : ∃ i, delayCommand p q = some i := by
  simp [delayCommand, secToTicks, hq]

end expandLine

/-- Settles O48: each form of line by its lemma above, and an ill-formed line by `expandLine_illFormed`. -/
theorem scriptLinesExpand : Obligations.ScriptLinesExpand := by
  intro p
  refine ⟨expandLine_setState p true, expandLine_setState p false, expandLine_wait p, ?_, ?_, ?_, ?_, ?_, ?_⟩
  · intro n hn
    exact expandLine_command p ((wellFormed_command_some _ n).2 ⟨rfl, hn⟩)
  · intro n hn
    exact expandLine_illFormed p fun hwf => Nat.not_lt.2 hn ((wellFormed_command_some _ n).1 hwf).2
  · exact expandLine_illFormed p fun hwf => (wellFormed_command_none _).1 hwf rfl
  · intro m hm
    exact ⟨expandLine_command p ((wellFormed_command_none m).2 hm),
      fun n => expandLine_illFormed p fun hwf => hm ((wellFormed_command_some m n).1 hwf).1⟩
  · intro q hq
    obtain ⟨i, hi⟩ := exists_delayCommand p hq
    exact ⟨i, hi, expandLine_onDelaySeconds p hq hi⟩
  · intro q hq
    exact expandLine_illFormed p fun hwf => not_lt.2 hq ((wellFormed_onDelaySeconds q).1 hwf)

end Sys2Proof.Machine

/-! PROOFS. The statements of spec/40_shared_timer.md: the counter (R55), the channels (R57, R58, R60), what of them no
command reaches (R62), and the run of a delay (R61). -/

namespace Sys2Proof.Machine

/-! ### The counter -/

/-- A cycle without reset latches the registers of the five phases, with the host command on the port (R95). -/
theorem step_live {s : State} (h : Live s) :
    step s = .next (advance s (cycleRegs s.params s.regs (pins s) (portCommand s))) := by
  rw [step_valid h.1, nextRegs_live _ _ _ _ h.2]

theorem ticksIn_cons (i : Inputs) (is : List Inputs) : ticksIn (i :: is) = ticksIn [i] + ticksIn is :=
  ticksIn_append [i] is

theorem ticksIn_singleton (i : Inputs) : ticksIn [i] = if i.tick then 1 else 0 := rfl

theorem ticksIn_singleton_le (i : Inputs) : ticksIn [i] ≤ 1 := by
  rw [ticksIn_singleton]
  split_ifs <;> decide

/-- The counter after a cycle without reset is the old one and the cycle's ticks, modulo `2^W` (R55). -/
theorem cycleRegs_cnt_modEq (p : Params) (r : Regs) (i : Inputs) (c : HostCommand) :
    (cycleRegs p r i c).cnt ≡ r.cnt + ticksIn [i] [MOD 2 ^ p.w] := by
  rw [cycleRegs_cnt, ticksIn_singleton]
  split_ifs
  · exact Nat.mod_modEq _ _
  · rfl

theorem cycleRegs_cnt_lt {p : Params} {r : Regs} (i : Inputs) (c : HostCommand) (h : r.cnt < 2 ^ p.w) :
    (cycleRegs p r i c).cnt < 2 ^ p.w := by
  rw [cycleRegs_cnt]
  split_ifs
  · exact wrapAdd_lt _ _ _
  · exact h

/-- What every cycle without reset keeps: the parameters, the width of the counter, and the residue of the counter and
all the ticks that are still scheduled. -/
structure CountsTo (p : Params) (total : Nat) (s : State) : Prop where
  params : s.params = p
  cnt_lt : s.regs.cnt < 2 ^ p.w
  residue : s.regs.cnt + ticksIn s.inputs ≡ total [MOD 2 ^ p.w]

theorem step_countsTo {p : Params} {total : Nat} {s : State} {x : Inputs} {xs : List Inputs} (hvalid : p.valid = true)
    (hrst : x.rst = false) (hin : s.inputs = x :: xs) (h : CountsTo p total s) :
    ∃ t, step s = .next t ∧ t.inputs = s.inputs.tail ∧ CountsTo p total t := by
  obtain ⟨rfl, hlt, hres⟩ := h
  have hpins : pins s = x := pins_cons s x xs hin
  refine ⟨_, step_live ⟨hvalid, hpins ▸ hrst⟩, rfl, rfl, cycleRegs_cnt_lt _ _ hlt, ?_⟩
  rw [advance_regs, advance_inputs, hin, List.tail_cons, hpins]
  rw [hin, ticksIn_cons, ← Nat.add_assoc] at hres
  exact ((cycleRegs_cnt_modEq _ _ _ _).add_right _).trans hres

/-- Settles O30: `cycleRegs_cnt` for one cycle, and the invariant `CountsTo` for a run of them. -/
theorem counterCountsTicks : Obligations.CounterCountsTicks := by
  refine ⟨fun s hlive => ⟨_, step_live hlive, cycleRegs_cnt _ _ _ _⟩, ?_⟩
  intro s is rest hvalid hlt hin hrst
  obtain ⟨t, hrun, htin, -, htlt, htres⟩ :=
    runCycles_invariant (P := CountsTo s.params (s.regs.cnt + ticksIn s.inputs)) is rest s hin ⟨rfl, hlt, rfl⟩
      fun u x xs hx hu hP => step_countsTo hvalid (hrst x hx) hu hP
  refine ⟨t, hrun, ?_⟩
  rw [htin, hin, ticksIn_append, ← Nat.add_assoc] at htres
  have hcnt : t.regs.cnt ≡ s.regs.cnt + ticksIn is [MOD 2 ^ s.params.w] := htres.add_right_cancel'
  rw [← hcnt, Nat.mod_eq_of_lt htlt]

/-! ### The channels -/

theorem Channel.disarm_of_idle {c : Channel} (h : c.mode = .idle) : c.disarm = c := by
  cases c
  cases h
  rfl

theorem Channel.disarm_fires (c : Channel) (cnt : Nat) : c.disarm.fires cnt = false := rfl

/-- Settles O29: the equations of arm and disarm, and `Channel.fires_iff`. -/
theorem channelOperations : Obligations.ChannelOperations :=
  fun _ c cnt _ => ⟨rfl, rfl, Channel.disarm_of_idle, c.fires_iff cnt, c.disarm_fires cnt⟩

/-! ### The counter, channel 0 and the debounce engine stand apart from the PTT side -/

section noninterference
variable {p : Params} {r q : Regs} {i j : Inputs}

theorem debounceEvent_congr (h : SameTimerAndDebounce r q) (hbtn : i.btnIn = j.btnIn) :
    debounceEvent r i = debounceEvent q j := by
  obtain ⟨hcnt, hch0, hstate, -, -, hline⟩ := h
  rw [debounceEvent, debounceEvent, edge, edge, fire0, fire0, hcnt, hch0, hstate, hline, hbtn]

/-- What the debounce engine latches, it computes from the registers of `SameTimerAndDebounce` and the button. -/
theorem debouncePhase_congr (h : SameTimerAndDebounce r q) (hbtn : i.btnIn = j.btnIn) :
    SameTimerAndDebounce (debouncePhase p r i r) (debouncePhase p q j q) := by
  have hevent := debounceEvent_congr h hbtn
  obtain ⟨hcnt, hch0, hstate, hpol, hflag, hline⟩ := h
  cases hr : debounceEvent r i with
  | accept =>
    have hpolarity : edgePolarity p i = edgePolarity p j := by
      rw [edgePolarity, edgePolarity, active, active, hbtn]
    rw [debouncePhase_accept _ _ _ _ hr, debouncePhase_accept _ _ _ _ (hevent ▸ hr)]
    exact ⟨hcnt, congrArg (Channel.arm p · _) hcnt, rfl, hpolarity, rfl, hbtn⟩
  | ignore =>
    rw [debouncePhase_ignore _ _ _ _ hr, debouncePhase_ignore _ _ _ _ (hevent ▸ hr)]
    exact ⟨hcnt, hch0, hstate, hpol, rfl, hline⟩
  | expire =>
    rw [debouncePhase_expire _ _ _ _ hr, debouncePhase_expire _ _ _ _ (hevent ▸ hr)]
    exact ⟨hcnt, congrArg Channel.disarm hch0, rfl, hpol, rfl, hbtn⟩
  | quiet =>
    rw [debouncePhase_quiet _ _ _ _ hr, debouncePhase_quiet _ _ _ _ (hevent ▸ hr)]
    exact ⟨hcnt, hch0, hstate, hpol, hflag, hline⟩

theorem cycleRegs_congr (c d : HostCommand) (h : SameTimerAndDebounce r q) (hbtn : i.btnIn = j.btnIn)
    (htick : i.tick = j.tick) : SameTimerAndDebounce (cycleRegs p r i c) (cycleRegs p q j d) := by
  obtain ⟨-, hch0, hstate, hpol, hflag, hline⟩ := debouncePhase_congr (p := p) h hbtn
  have hcnt : (cycleRegs p r i c).cnt = (cycleRegs p q j d).cnt := by
    rw [cycleRegs_cnt, cycleRegs_cnt, htick, h.1]
  exact ⟨hcnt, by simpa using hch0, by simpa using hstate, by simpa using hpol, by simpa using hflag,
    by simpa using hline⟩

/-- R62 for a whole cycle, a reset cycle included. -/
theorem nextRegs_congr (c d : HostCommand) (h : SameTimerAndDebounce r q) (hrst : i.rst = j.rst)
    (hbtn : i.btnIn = j.btnIn) (htick : i.tick = j.tick) :
    SameTimerAndDebounce (nextRegs p r i c) (nextRegs p q j d) := by
  cases hr : i.rst with
  | true =>
    rw [nextRegs_reset _ _ _ _ hr, nextRegs_reset _ _ _ _ (hrst ▸ hr)]
    exact ⟨rfl, rfl, rfl, rfl, rfl, hbtn⟩
  | false =>
    rw [nextRegs_live _ _ _ _ hr, nextRegs_live _ _ _ _ (hrst ▸ hr)]
    exact cycleRegs_congr c d h hbtn htick

end noninterference

/-- Settles O31: both parts are `nextRegs_congr`, the first at one state and two host commands. -/
theorem debounceIndependentOfPttSide : Obligations.DebounceIndependentOfPttSide := by
  constructor
  · intro i j s t u ht hu
    obtain ⟨-, rfl⟩ := exec_next ht
    obtain ⟨-, rfl⟩ := exec_next hu
    exact nextRegs_congr _ _ ⟨rfl, rfl, rfl, rfl, rfl, rfl⟩ rfl rfl rfl
  · intro s u t v hparams hsame hrst hbtn htick ht hv
    obtain ⟨-, rfl⟩ := step_next ht
    obtain ⟨-, rfl⟩ := step_next hv
    rw [advance_regs, advance_regs, hparams]
    exact nextRegs_congr _ _ hsame hrst hbtn htick

/-! ### Only `ON_DELAY` starts a delay -/

/-- A triple with no delay in progress: it is not `PENDING` and channel 1 is disarmed. -/
structure NoDelay (t : Triple) : Prop where
  notPending : t.p ≠ .pending
  disarmed : t.ch1.mode = .idle

theorem noDelay_setP {x : PttState} (hx : x ≠ .pending) (t : Triple) : NoDelay (setP x t) := ⟨hx, rfl⟩

theorem noDelay_toggleP (t : Triple) : NoDelay (toggleP t) := ⟨toggled_ne_pending t.p, rfl⟩

/-- The events of a cycle either leave the triple alone or end a delay (R76, R77). -/
theorem eventTriple_noDelay (r : Regs) (i : Inputs) :
    eventTriple r i = startTriple r ∨ NoDelay (eventTriple r i) := by
  rcases eventTriple_cases r i with ⟨-, -, h⟩ | ⟨-, -, h⟩ | ⟨-, -, h⟩ | ⟨-, -, h⟩ <;> rw [h]
  · exact .inl rfl
  · exact .inr ⟨nofun, rfl⟩
  · exact .inr ⟨toggled_ne_pending _, rfl⟩
  · exact .inr ⟨nofun, rfl⟩

/-- Every command but `ON_DELAY` leaves the triple alone or ends a delay (R78 to R81, R84). -/
theorem hostCommand_write_cases (s : State) (i : Instr) :
    (∃ a, i = .onDelay a) ∨ (hostCommand s i).write = id ∨ ∀ t, NoDelay ((hostCommand s i).write t) := by
  cases i with
  | onDelay a => exact .inl ⟨a, rfl⟩
  | nop a => exact .inr (.inl rfl)
  | get a => exact .inr (.inl rfl)
  | setOff a => exact .inr (.inr (noDelay_setP (by decide)))
  | setOn a => exact .inr (.inr (noDelay_setP (by decide)))
  | toggle a => exact .inr (.inr noDelay_toggleP)

/-- The same of what stands on the port: an idle port and a reserved opcode leave the triple alone (R46, R85). -/
theorem portCommand_write_cases (s : State) :
    (∃ a, presented (pins s) = .command (.onDelay a)) ∨ (portCommand s).write = id ∨
      ∀ t, NoDelay ((portCommand s).write t) := by
  cases hport : presented (pins s) with
  | none => exact .inr (.inl (by rw [portCommand_none hport]))
  | reserved w => exact .inr (.inl (by rw [portCommand_reserved hport]))
  | command i =>
    rw [portCommand_command hport]
    obtain ⟨a, rfl⟩ | h := hostCommand_write_cases s i
    · exact .inl ⟨a, rfl⟩
    · exact .inr h

/-- Without `ON_DELAY` on the port, the triple a cycle ends with is the one it started with, or has no delay. -/
theorem finalTriple_cases (s : State) :
    (∃ a, presented (pins s) = .command (.onDelay a)) ∨
      finalTriple s.regs (pins s) (portCommand s) = startTriple s.regs ∨
      NoDelay (finalTriple s.regs (pins s) (portCommand s)) := by
  obtain hdelay | hid | hends := portCommand_write_cases s
  · exact .inl hdelay
  · rw [finalTriple, hid]
    exact .inr (eventTriple_noDelay s.regs (pins s))
  · exact .inr (.inr (hends _))

/-- Settles O27: a reset cycle ends with no delay, and any other cycle by `finalTriple_cases`. -/
theorem pendingOnlyByOnDelay : Obligations.PendingOnlyByOnDelay := by
  intro s t hstep hdelay
  obtain ⟨-, rfl⟩ := step_next hstep
  cases hrst : (pins s).rst with
  | true =>
    rw [advance_regs, nextRegs_reset _ _ _ _ hrst] at hdelay
    rcases hdelay with h | h <;> cases h
  | false =>
    rw [advance_regs, nextRegs_live _ _ _ _ hrst, cycleRegs_pttState, cycleRegs_ch1] at hdelay ⊢
    obtain hport | hsame | ⟨hstate, hmode⟩ := finalTriple_cases s
    · exact .inl hport
    · rw [hsame]
      exact .inr ⟨rfl, rfl⟩
    · rcases hdelay with h | h
      · exact absurd h hstate
      · cases hmode.symm.trans h

/-! ### The run of a delay -/

/-- With no window open, a button that stays as accepted gives no debounce event (R69). -/
theorem debounceEvent_steady {r : Regs} {i : Inputs} (hidle : r.debState = .idle) (hbtn : i.btnIn = r.lineState) :
    debounceEvent r i = .quiet :=
  (debounceEvent_quiet r i).2 ⟨.inl hidle, hbtn⟩

/-- With no window open there is no expiry to toggle the state (R68, R70). -/
theorem debToggle_of_idle {r : Regs} (i : Inputs) (hidle : r.debState = .idle) : debToggle r i = false := by
  rw [Bool.eq_false_iff]
  intro h
  obtain ⟨hcaptured, -, -⟩ := (debToggle_iff r i).1 h
  cases hidle.symm.trans hcaptured

/-- The distance from the counter to a target that it has not reached falls by the cycle's ticks (R61). -/
theorem wrapSub_cycle {p : Params} {r : Regs} {x : Nat} (i : Inputs) (c : HostCommand) (hx : x < 2 ^ p.w)
    (hcnt : r.cnt < 2 ^ p.w) (hne : wrapSub p.w x r.cnt ≠ 0) :
    wrapSub p.w x (cycleRegs p r i c).cnt = wrapSub p.w x r.cnt - ticksIn [i] := by
  rw [cycleRegs_cnt, ticksIn_singleton]
  split_ifs
  · have htick := wrapSub_tick hx hcnt fun h => hne ((wrapSub_eq_zero hx hcnt).2 h)
    omega
  · rfl

/-- A delay in progress with `n` ticks left, no window open, and the button last accepted at `line`. -/
structure Delaying (p : Params) (line : Level) (n : Nat) (r : Regs) : Prop where
  pending : r.pttState = .pending
  armed : r.ch1.mode = .armedCompare
  cnt_lt : r.cnt < 2 ^ p.w
  ccr_lt : r.ch1.ccr < 2 ^ p.w
  remaining : delayRemaining p r = n
  noWindow : r.debState = .idle
  accepted : r.lineState = line

section delay
variable {p : Params} {line : Level} {n : Nat} {r : Regs} {i : Inputs}

/-- Channel 1 fires exactly when no tick is left (R58, R61). -/
theorem Delaying.fire1_iff (h : Delaying p line n r) : fire1 r = true ↔ n = 0 := by
  rw [fire1, Channel.fires_iff, and_iff_right h.armed, ← h.remaining, delayRemaining,
    wrapSub_eq_zero h.ccr_lt h.cnt_lt]
  exact eq_comm

/-- A cycle whose host command leaves a delay armed, with the button steady, ends with that delay in progress. -/
theorem delaying_cycleRegs {c : HostCommand} {x : Nat} (hcnt : r.cnt < 2 ^ p.w) (hx : x < 2 ^ p.w)
    (hremaining : wrapSub p.w x r.cnt = n) (hn : n ≠ 0) (hidle : r.debState = .idle) (hline : r.lineState = line)
    (hbtn : i.btnIn = line) (hfinal : finalTriple r i c = { p := .pending, ch1 := ⟨.armedCompare, x⟩ }) :
    Delaying p line (n - ticksIn [i]) (cycleRegs p r i c) := by
  have hdeb : debouncePhase p r i r = r :=
    debouncePhase_quiet p r i r (debounceEvent_steady hidle (hbtn.trans hline.symm))
  have hch1 : (cycleRegs p r i c).ch1 = ⟨.armedCompare, x⟩ := by rw [cycleRegs_ch1, hfinal]
  refine
    { pending := by rw [cycleRegs_pttState, hfinal]
      armed := by rw [hch1]
      cnt_lt := cycleRegs_cnt_lt i c hcnt
      ccr_lt := by rw [hch1]; exact hx
      remaining := ?_
      noWindow := by rw [cycleRegs_debState, hdeb, hidle]
      accepted := by rw [cycleRegs_lineState, hdeb, hline] }
  rw [delayRemaining, hch1, wrapSub_cycle i c hx hcnt (hremaining ▸ hn), hremaining]

/-- `ON_DELAY` starts a delay of its count, less the tick of its own cycle (R83, R89 Q4). -/
theorem delaying_pendP {c : HostCommand} {d : Nat} (hcnt : r.cnt < 2 ^ p.w) (hd : d < 2 ^ p.w) (hpos : 1 ≤ d)
    (hidle : r.debState = .idle) (hbtn : i.btnIn = r.lineState) (hc : c.write = pendP p r.cnt d) :
    Delaying p r.lineState (d - ticksIn [i]) (cycleRegs p r i c) :=
  delaying_cycleRegs hcnt (wrapAdd_lt _ _ _) (wrapSub_wrapAdd hcnt hd) (Nat.one_le_iff_ne_zero.1 hpos) hidle rfl hbtn
    (by rw [finalTriple, hc]; rfl)

/-- Without a command, a delay with a tick left goes on. -/
theorem Delaying.next {c : HostCommand} (h : Delaying p line n r) (hn : n ≠ 0) (hbtn : i.btnIn = line)
    (hc : c.write = id) : Delaying p line (n - ticksIn [i]) (cycleRegs p r i c) := by
  have hfire : fire1 r = false := Bool.eq_false_iff.2 fun hf => hn (h.fire1_iff.1 hf)
  have hfinal : finalTriple r i c = { p := .pending, ch1 := ⟨.armedCompare, r.ch1.ccr⟩ } := by
    rw [finalTriple, hc, id_eq, eventTriple_of_no_event r i hfire (debToggle_of_idle i h.noWindow), startTriple,
      h.pending, ← h.armed]
  exact delaying_cycleRegs h.cnt_lt h.ccr_lt h.remaining hn h.noWindow h.accepted hbtn hfinal

/-- Without a command, a delay with no tick left ends `ON` (R76). -/
theorem Delaying.last {c : HostCommand} (h : Delaying p line 0 r) (hc : c.write = id) :
    (cycleRegs p r i c).pttState = .on := by
  have hfire : fire1 r = true := h.fire1_iff.2 rfl
  rw [cycleRegs_pttState, finalTriple, hc, id_eq, eventTriple, debounceToggle, debToggle_of_idle i h.noWindow,
    delayFire, hfire]
  rfl

end delay

/-- A cycle with neither reset nor command, from a delay in progress: the state ends `ON` exactly if no tick
was left. -/
theorem step_delaying_pttState {p : Params} {line : Level} {n : Nat} {s : State} {j : Inputs} {rest : List Inputs}
    (hparams : s.params = p) (hvalid : p.valid = true) (hin : s.inputs = j :: rest) (hj : NoCommand j)
    (hbtn : j.btnIn = line) (h : Delaying p line n s.regs) :
    ∃ u, step s = .next u ∧ u.regs.pttState = if n = 0 then .on else .pending := by
  subst hparams
  refine ⟨_, step_noCommand hvalid hin hj, ?_⟩
  split_ifs with hn
  · exact (hn ▸ h).last rfl
  · exact (h.next hn hbtn rfl).pending

/-- A delay runs through cycles with neither reset nor command, as long as none of them begins with no tick left. -/
theorem runCycles_delaying {line : Level} {rest : List Inputs} (is : List Inputs) {n : Nat} {s : State}
    (hvalid : s.params.valid = true) (hin : s.inputs = is ++ rest) (hquiet : ∀ x ∈ is, NoCommand x)
    (hbtn : ∀ x ∈ is, x.btnIn = line) (h : Delaying s.params line n s.regs)
    (hticks : ∀ q, q <+: is → q ≠ is → ticksIn q < n) :
    ∃ t, runCycles is.length s = .next t ∧ t.params = s.params ∧ t.inputs = rest ∧
      Delaying s.params line (n - ticksIn is) t.regs := by
  induction is generalizing n s with
  | nil => exact ⟨s, rfl, rfl, hin, h⟩
  | cons x xs ih =>
    have hn : 0 < n := hticks [] ⟨x :: xs, rfl⟩ (List.cons_ne_nil x xs).symm
    have hstep := step_noCommand hvalid hin (hquiet x List.mem_cons_self)
    obtain ⟨t, hrun, hparams, htin, ht⟩ := ih
      (s := advance s (cycleRegs s.params s.regs x { write := id, answer := noAnswer })) hvalid
      (by rw [advance_inputs, hin]; rfl) (fun y hy => hquiet y (List.mem_cons_of_mem x hy))
      (fun y hy => hbtn y (List.mem_cons_of_mem x hy)) (h.next hn.ne' (hbtn x List.mem_cons_self) rfl) (by
        rintro q ⟨rest', hq⟩ hne
        have hlt := hticks (x :: q) ⟨rest', by rw [List.cons_append, hq]⟩ fun he => hne (List.cons.inj he).2
        rw [ticksIn_cons] at hlt
        omega)
    refine ⟨t, by rw [List.length_cons, runCycles_succ _ hstep]; exact hrun, hparams, htin, ?_⟩
    rw [ticksIn_cons, ← Nat.sub_sub]
    exact ht

/-- A cycle brings at most one tick, so a count that no proper beginning reaches is not passed. -/
theorem ticksIn_le_of_beginnings {m : Nat} (i : Inputs) (is : List Inputs) (hm : 1 ≤ m)
    (h : ∀ q, q <+: is → q ≠ is → ticksIn (i :: q) < m) : ticksIn (i :: is) ≤ m := by
  rcases List.eq_nil_or_concat' is with rfl | ⟨q, x, rfl⟩
  · exact (ticksIn_singleton_le i).trans hm
  · have hlt := h q ⟨[x], rfl⟩ (by simp)
    have hx := ticksIn_singleton_le x
    rw [← List.cons_append, ticksIn_append]
    omega

/-- Settles O32: `delaying_pendP` for the arming cycle, `runCycles_delaying` for the cycles after it, and
`step_delaying_pttState` for the last one. -/
theorem delayRunsItsTicks : Obligations.DelayRunsItsTicks := by
  intro s a i₀ j is rest hvalid hcnt hin hrst hport hquiet hidle hbtn hticks
  obtain ⟨hpos, hd⟩ := clampDelay_bounds hvalid a
  have hle : ticksIn (i₀ :: is) ≤ clampDelay s.params a := ticksIn_le_of_beginnings i₀ is hpos hticks
  have hpins : pins s = i₀ := pins_cons s i₀ _ hin
  have hcommand : portCommand s = hostCommand s (.onDelay a) := portCommand_command (hpins ▸ hport)
  have harm := step_live ⟨hvalid, hpins ▸ hrst⟩
  rw [hcommand, hpins] at harm
  have hstart := delaying_pendP (c := hostCommand s (.onDelay a)) hcnt hd hpos hidle
    (hbtn i₀ List.mem_cons_self) rfl
  obtain ⟨t, hrun, hparams, htin, ht⟩ := runCycles_delaying (rest := j :: rest) is
    (s := advance s (cycleRegs s.params s.regs i₀ (hostCommand s (.onDelay a)))) hvalid
    (by rw [advance_inputs, hin]; rfl) (fun x hx => hquiet x (by simp [hx])) (fun x hx => hbtn x (by simp [hx])) hstart
    (fun q hq hne => by
      have hlt := hticks q hq hne
      rw [ticksIn_cons] at hlt
      omega)
  rw [advance_params] at hparams ht
  rw [Nat.sub_sub, ← ticksIn_cons] at ht
  obtain ⟨u, hu, hstate⟩ :=
    step_delaying_pttState hparams hvalid htin (hquiet j (by simp)) (hbtn j (by simp)) ht
  have hzero : clampDelay s.params a - ticksIn (i₀ :: is) = 0 ↔ ticksIn (i₀ :: is) = clampDelay s.params a := by
    omega
  refine ⟨hle, t, u, ?_, hu, ht.pending, hparams.symm ▸ ht.remaining, ht.fire1_iff.trans hzero, ?_⟩
  · rw [Nat.add_comm, runCycles_succ _ harm]
    exact hrun
  · simpa only [hzero] using hstate

end Sys2Proof.Machine

/-! PROOFS. The statements of spec/41_debounce.md: the four events of the debounce engine (R66 to R69), its toggle request
(R70), and the run of a window (R72). -/

namespace Sys2Proof.Machine

/-! ### The toggle request -/

/-- The condition of R68 in the registers themselves. -/
theorem debounceEvent_expire_iff_reached (r : Regs) (i : Inputs) :
    debounceEvent r i = .expire ↔ r.debState = .captured ∧ r.ch0.mode = .armedCompare ∧ r.cnt = r.ch0.ccr := by
  rw [debounceEvent_expire, fire0, Channel.fires_iff]

/-- Only an expiry requests a toggle (R70). -/
theorem debToggle_of_ne_expire {r : Regs} {i : Inputs} (h : debounceEvent r i ≠ .expire) : debToggle r i = false := by
  simp [debToggle, h]

/-- An expiry requests a toggle exactly for a window that a press opened (R68). -/
theorem debToggle_of_expire {r : Regs} {i : Inputs} (h : debounceEvent r i = .expire) :
    debToggle r i = true ↔ r.debPol = .press := by
  simp [debToggle, h]

theorem toggled_eq_ite (x : PttState) : toggled x = if x = .on then .off else .on := by
  cases x <;> rfl

/-! ### What each event latches -/

theorem edgePolarity_eq_ite (p : Params) (i : Inputs) :
    edgePolarity p i = if i.btnIn = p.btnActiveLevel then .press else .release := by
  simp [edgePolarity, active]

section engine
variable {p : Params} {r : Regs} {i : Inputs} {c : HostCommand}

/-- R66, whatever the host does. -/
theorem cycleRegs_of_accept (h : debounceEvent r i = .accept) :
    (cycleRegs p r i c).debState = .captured ∧ (cycleRegs p r i c).debPol = edgePolarity p i ∧
      (cycleRegs p r i c).lineState = i.btnIn ∧ (cycleRegs p r i c).edgeIfg = false ∧
      (cycleRegs p r i c).ch0 = Channel.arm p r.cnt p.debounceTicks := by
  rw [cycleRegs_debState, cycleRegs_debPol, cycleRegs_lineState, cycleRegs_edgeIfg, cycleRegs_ch0,
    debouncePhase_accept p r i r h]
  exact ⟨rfl, rfl, rfl, rfl, rfl⟩

/-- R67, whatever the host does. -/
theorem cycleRegs_of_ignore (h : debounceEvent r i = .ignore) :
    (cycleRegs p r i c).edgeIfg = true ∧ (cycleRegs p r i c).debState = r.debState ∧
      (cycleRegs p r i c).debPol = r.debPol ∧ (cycleRegs p r i c).lineState = r.lineState ∧
      (cycleRegs p r i c).ch0 = r.ch0 := by
  rw [cycleRegs_debState, cycleRegs_debPol, cycleRegs_lineState, cycleRegs_edgeIfg, cycleRegs_ch0,
    debouncePhase_ignore p r i r h]
  exact ⟨rfl, rfl, rfl, rfl, rfl⟩

/-- R68, whatever the host does. -/
theorem cycleRegs_of_expire (h : debounceEvent r i = .expire) :
    (cycleRegs p r i c).debState = .idle ∧ (cycleRegs p r i c).ch0 = r.ch0.disarm ∧
      (cycleRegs p r i c).edgeIfg = false ∧ (cycleRegs p r i c).lineState = i.btnIn ∧
      (cycleRegs p r i c).debPol = r.debPol := by
  rw [cycleRegs_debState, cycleRegs_debPol, cycleRegs_lineState, cycleRegs_edgeIfg, cycleRegs_ch0,
    debouncePhase_expire p r i r h]
  exact ⟨rfl, rfl, rfl, rfl, rfl⟩

/-- R69, whatever the host does. -/
theorem cycleRegs_of_quiet (h : debounceEvent r i = .quiet) :
    (cycleRegs p r i c).debState = r.debState ∧ (cycleRegs p r i c).debPol = r.debPol ∧
      (cycleRegs p r i c).edgeIfg = r.edgeIfg ∧ (cycleRegs p r i c).lineState = r.lineState ∧
      (cycleRegs p r i c).ch0 = r.ch0 := by
  rw [cycleRegs_debState, cycleRegs_debPol, cycleRegs_lineState, cycleRegs_edgeIfg, cycleRegs_ch0,
    debouncePhase_quiet p r i r h]
  exact ⟨rfl, rfl, rfl, rfl, rfl⟩

/-- An open window that does not expire stays as it was opened, whatever the line does (R67, R69). -/
theorem cycleRegs_of_open_window (hcaptured : r.debState = .captured) (hfire : fire0 r = false) :
    (cycleRegs p r i c).debState = .captured ∧ (cycleRegs p r i c).debPol = r.debPol ∧
      (cycleRegs p r i c).lineState = r.lineState ∧ (cycleRegs p r i c).ch0 = r.ch0 := by
  by_cases hbtn : i.btnIn = r.lineState
  · obtain ⟨hstate, hpol, -, hline, hch0⟩ :=
      cycleRegs_of_quiet (p := p) (c := c) ((debounceEvent_quiet r i).2 ⟨.inr ⟨hcaptured, hfire⟩, hbtn⟩)
    exact ⟨hstate.trans hcaptured, hpol, hline, hch0⟩
  · obtain ⟨-, hstate, hpol, hline, hch0⟩ :=
      cycleRegs_of_ignore (p := p) (c := c) ((debounceEvent_ignore r i).2 ⟨hcaptured, hfire, hbtn⟩)
    exact ⟨hstate.trans hcaptured, hpol, hline, hch0⟩

/-! ### The PTT side without a command and without a delay fire -/

/-- Without a command, a delay fire or a toggle request, nothing writes the PTT state or channel 1 (R95). -/
theorem cycleRegs_ptt_of_no_writer (hc : c.write = id) (hfire : fire1 r = false) (htoggle : debToggle r i = false) :
    (cycleRegs p r i c).pttState = r.pttState ∧ (cycleRegs p r i c).ch1 = r.ch1 := by
  rw [cycleRegs_pttState, cycleRegs_ch1, finalTriple, hc, id_eq, eventTriple_of_no_event r i hfire htoggle]
  exact ⟨rfl, rfl⟩

/-- Without a command or a delay fire, a toggle request toggles the PTT state (R75, R77). -/
theorem cycleRegs_pttState_of_toggle (hc : c.write = id) (hfire : fire1 r = false) (htoggle : debToggle r i = true) :
    (cycleRegs p r i c).pttState = if r.pttState = .on then .off else .on := by
  rw [cycleRegs_pttState, finalTriple, hc, id_eq, eventTriple, debounceToggle, if_pos htoggle, delayFire, hfire,
    if_neg Bool.false_ne_true, toggleP_p, startTriple_p, toggled_eq_ite]

end engine

/-- An idle port writes nothing (R46). -/
theorem portCommand_write_of_idlePort {s : State} (h : (pins s).cmdValid = false) : (portCommand s).write = id := by
  rw [portCommand_none (presented_noCommand _ h)]

/-! ### The four events in a step -/

/-- Settles O34: the event of the cycle is `accept`. -/
theorem edgeOpensWindow : Obligations.EdgeOpensWindow := by
  intro s hlive hidle hbtn
  have hevent : debounceEvent s.regs (pins s) = .accept := (debounceEvent_accept _ _).2 ⟨hidle, hbtn⟩
  have htoggle := debToggle_of_idle (pins s) hidle
  obtain ⟨hstate, hpol, hline, hflag, hch0⟩ := cycleRegs_of_accept (p := s.params) (c := portCommand s) hevent
  exact ⟨_, step_live hlive, hstate, hpol.trans (edgePolarity_eq_ite _ _), hline, hflag, hch0, htoggle,
    fun hport hfire => cycleRegs_ptt_of_no_writer (portCommand_write_of_idlePort hport) hfire htoggle⟩

/-- Settles O35: the event of the cycle is `ignore`. -/
theorem edgeInsideWindowIsIgnored : Obligations.EdgeInsideWindowIsIgnored := by
  intro s hlive hcaptured hfire0 hbtn
  have hevent : debounceEvent s.regs (pins s) = .ignore := (debounceEvent_ignore _ _).2 ⟨hcaptured, hfire0, hbtn⟩
  have htoggle : debToggle s.regs (pins s) = false := debToggle_of_ne_expire (by rw [hevent]; decide)
  obtain ⟨hflag, hstate, hpol, hline, hch0⟩ := cycleRegs_of_ignore (p := s.params) (c := portCommand s) hevent
  exact ⟨_, step_live hlive, hflag, hstate.trans hcaptured, hpol, hline, hch0, htoggle,
    fun hport hfire => cycleRegs_ptt_of_no_writer (portCommand_write_of_idlePort hport) hfire htoggle⟩

/-- Settles O36: the event of the cycle is `expire`, the only one that requests a toggle. -/
theorem windowExpiry : Obligations.WindowExpiry := by
  constructor
  · intro s hlive hcaptured harmed hreached
    have hevent : debounceEvent s.regs (pins s) = .expire :=
      (debounceEvent_expire_iff_reached _ _).2 ⟨hcaptured, harmed, hreached⟩
    have htoggle := debToggle_of_expire hevent
    obtain ⟨hstate, hch0, hflag, hline, hpol⟩ := cycleRegs_of_expire (p := s.params) (c := portCommand s) hevent
    refine ⟨_, step_live hlive, hstate, hch0, hflag, hline, hpol, htoggle, ?_, ?_⟩
    · intro hport hfire hpress
      exact cycleRegs_pttState_of_toggle (portCommand_write_of_idlePort hport) hfire (htoggle.2 hpress)
    · intro hport hfire hrelease
      have hnone : debToggle s.regs (pins s) = false := by
        rw [Bool.eq_false_iff, Ne, htoggle, hrelease]
        decide
      exact (cycleRegs_ptt_of_no_writer (portCommand_write_of_idlePort hport) hfire hnone).1
  · intro r i hnot
    exact debToggle_of_ne_expire (mt (debounceEvent_expire_iff_reached r i).1 hnot)

/-- Settles O37: the event of the cycle is `quiet`. -/
theorem quietDebounceCycle : Obligations.QuietDebounceCycle := by
  intro s hlive hbtn hcases
  have hevent : debounceEvent s.regs (pins s) = .quiet := (debounceEvent_quiet _ _).2 ⟨hcases, hbtn⟩
  obtain ⟨hstate, hpol, hflag, hline, hch0⟩ := cycleRegs_of_quiet (p := s.params) (c := portCommand s) hevent
  exact ⟨_, step_live hlive, hstate, hpol, hflag, hline, hch0, debToggle_of_ne_expire (by rw [hevent]; decide)⟩

/-! ### The run of a window -/

/-- A window is shorter than one turn of the counter (R8). -/
theorem debounceTicks_bounds {p : Params} (h : p.valid = true) : 1 ≤ p.debounceTicks ∧ p.debounceTicks < 2 ^ p.w := by
  obtain ⟨-, -, -, hlow, hhigh, -⟩ := (Params.valid_iff p).1 h
  have hpos := Nat.two_pow_pos p.w
  omega

/-- A disarmed channel 1 does not fire (R58). -/
theorem fire1_of_idle {r : Regs} (h : r.ch1.mode = .idle) : fire1 r = false := by
  simp [fire1, Channel.fires, h]

/-- A window that an edge of polarity `pol` to the level `line` opened, with `n` ticks left, while the PTT state is `x`
and no delay is in progress. -/
structure InWindow (p : Params) (pol : Polarity) (line : Level) (x : PttState) (n : Nat) (r : Regs) : Prop where
  captured : r.debState = .captured
  polarity : r.debPol = pol
  accepted : r.lineState = line
  armed : r.ch0.mode = .armedCompare
  cnt_lt : r.cnt < 2 ^ p.w
  ccr_lt : r.ch0.ccr < 2 ^ p.w
  remaining : windowRemaining p r = n
  ptt : r.pttState = x
  noDelay : r.ch1.mode = .idle

section window
variable {p : Params} {pol : Polarity} {line : Level} {x : PttState} {n : Nat} {r : Regs} {i : Inputs} {c : HostCommand}

/-- Channel 0 fires exactly when no tick is left (R58, R61). -/
theorem InWindow.fire0_iff (h : InWindow p pol line x n r) : fire0 r = true ↔ n = 0 := by
  rw [fire0, Channel.fires_iff, and_iff_right h.armed, ← h.remaining, windowRemaining,
    wrapSub_eq_zero h.ccr_lt h.cnt_lt]
  exact eq_comm

/-- An edge seen while `IDLE` opens a window of `DEBOUNCE_TICKS`, less the tick of its own cycle (R66, R72). -/
theorem inWindow_of_edge (hvalid : p.valid = true) (hcnt : r.cnt < 2 ^ p.w) (hidle : r.debState = .idle)
    (hbtn : i.btnIn ≠ r.lineState) (hch1 : r.ch1.mode = .idle) (hc : c.write = id) :
    InWindow p (edgePolarity p i) i.btnIn r.pttState (p.debounceTicks - ticksIn [i]) (cycleRegs p r i c) := by
  obtain ⟨hpos, hlt⟩ := debounceTicks_bounds hvalid
  obtain ⟨hstate, hpol, hline, -, hch0⟩ :=
    cycleRegs_of_accept (p := p) (c := c) ((debounceEvent_accept r i).2 ⟨hidle, hbtn⟩)
  obtain ⟨hptt, hch1'⟩ :=
    cycleRegs_ptt_of_no_writer (p := p) hc (fire1_of_idle hch1) (debToggle_of_idle i hidle)
  have hdist : wrapSub p.w (wrapAdd p.w r.cnt p.debounceTicks) r.cnt = p.debounceTicks := wrapSub_wrapAdd hcnt hlt
  refine
    { captured := hstate
      polarity := hpol
      accepted := hline
      armed := by rw [hch0, Channel.arm_mode]
      cnt_lt := cycleRegs_cnt_lt i c hcnt
      ccr_lt := by rw [hch0]; exact wrapAdd_lt _ _ _
      remaining := ?_
      ptt := hptt
      noDelay := by rw [hch1', hch1] }
  rw [windowRemaining, hch0, Channel.arm_ccr, wrapSub_cycle i c (wrapAdd_lt _ _ _) hcnt (by omega), hdist]

/-- Without a command, a window with a tick left goes on, whatever the line does (R67, R69). -/
theorem InWindow.next (h : InWindow p pol line x n r) (hn : n ≠ 0) (hc : c.write = id) :
    InWindow p pol line x (n - ticksIn [i]) (cycleRegs p r i c) := by
  have hfire : fire0 r = false := Bool.eq_false_iff.2 fun hf => hn (h.fire0_iff.1 hf)
  have htoggle : debToggle r i = false := debToggle_of_ne_expire fun he => by
    rw [((debounceEvent_expire r i).1 he).2] at hfire
    cases hfire
  obtain ⟨hstate, hpol, hline, hch0⟩ := cycleRegs_of_open_window (p := p) (i := i) (c := c) h.captured hfire
  obtain ⟨hptt, hch1⟩ := cycleRegs_ptt_of_no_writer (p := p) hc (fire1_of_idle h.noDelay) htoggle
  refine
    { captured := hstate
      polarity := hpol.trans h.polarity
      accepted := hline.trans h.accepted
      armed := by rw [hch0, h.armed]
      cnt_lt := cycleRegs_cnt_lt i c h.cnt_lt
      ccr_lt := by rw [hch0]; exact h.ccr_lt
      remaining := ?_
      ptt := hptt.trans h.ptt
      noDelay := by rw [hch1, h.noDelay] }
  have hdist : wrapSub p.w r.ch0.ccr r.cnt = n := h.remaining
  rw [windowRemaining, hch0, wrapSub_cycle i c h.ccr_lt h.cnt_lt (by rwa [hdist]), hdist]

/-- Without a command, a window with no tick left closes at the level of its last cycle, and toggles the PTT state exactly
if a press opened it (R68, R70). -/
theorem InWindow.last (h : InWindow p pol line x 0 r) (hc : c.write = id) :
    (cycleRegs p r i c).debState = .idle ∧ (cycleRegs p r i c).lineState = i.btnIn ∧
      (cycleRegs p r i c).pttState = if pol = .press then (if x = .on then .off else .on) else x := by
  have hevent : debounceEvent r i = .expire := (debounceEvent_expire r i).2 ⟨h.captured, h.fire0_iff.2 rfl⟩
  obtain ⟨hstate, -, -, hline, -⟩ := cycleRegs_of_expire (p := p) (c := c) hevent
  have htoggle := debToggle_of_expire hevent
  have hfire := fire1_of_idle h.noDelay
  rw [h.polarity] at htoggle
  refine ⟨hstate, hline, ?_⟩
  by_cases hpress : pol = .press
  · rw [if_pos hpress, cycleRegs_pttState_of_toggle hc hfire (htoggle.2 hpress), h.ptt]
  · rw [if_neg hpress, (cycleRegs_ptt_of_no_writer hc hfire (Bool.eq_false_iff.2 (mt htoggle.1 hpress))).1, h.ptt]

end window

/-- Some cycles first, then one more. -/
theorem runCycles_then_step {s t u : State} {n : Nat} (hrun : runCycles n s = .next t) (hstep : step t = .next u) :
    runCycles (n + 1) s = .next u :=
  (runCycles_add n 1 hrun).trans (runCycles_succ 0 hstep)

/-- From an edge seen while `IDLE`, the window runs through cycles with neither reset nor command, as long as none of them
begins with no tick left. -/
theorem runCycles_inWindow {s : State} {i₀ : Inputs} (is rest : List Inputs) (hvalid : s.params.valid = true)
    (hcnt : s.regs.cnt < 2 ^ s.params.w) (hin : s.inputs = i₀ :: (is ++ rest)) (hquiet : ∀ x ∈ i₀ :: is, NoCommand x)
    (hidle : s.regs.debState = .idle) (hbtn : i₀.btnIn ≠ s.regs.lineState) (hch1 : s.regs.ch1.mode = .idle)
    (hticks : ∀ q, q <+: is → q ≠ is → ticksIn (i₀ :: q) < s.params.debounceTicks) :
    ∃ t, runCycles (1 + is.length) s = .next t ∧ t.params = s.params ∧ t.inputs = rest ∧
      InWindow s.params (edgePolarity s.params i₀) i₀.btnIn s.regs.pttState
        (s.params.debounceTicks - ticksIn (i₀ :: is)) t.regs := by
  induction is using List.reverseRecOn generalizing rest with
  | nil =>
    have hstep := step_noCommand hvalid hin (hquiet i₀ List.mem_cons_self)
    exact ⟨_, runCycles_succ 0 hstep, rfl, by rw [advance_inputs, hin]; rfl,
      inWindow_of_edge hvalid hcnt hidle hbtn hch1 rfl⟩
  | append_singleton is y ih =>
    obtain ⟨t, hrun, hparams, htin, ht⟩ := ih (y :: rest) (by rw [hin, List.append_assoc]; rfl)
      (fun x hx => hquiet x (by rw [← List.cons_append]; exact List.mem_append_left _ hx))
      (fun q hq _ => hticks q (hq.trans (List.prefix_append is [y])) (by
        rintro rfl
        simpa using hq.length_le))
    have hleft := hticks is (List.prefix_append is [y]) (by simp)
    have hstep := step_noCommand (hparams ▸ hvalid) htin (hquiet y (by simp))
    have hlength : 1 + (is ++ [y]).length = 1 + is.length + 1 := by rw [List.length_append, ← Nat.add_assoc]; rfl
    rw [hlength]
    refine ⟨_, runCycles_then_step hrun hstep, hparams, by rw [advance_inputs, htin]; rfl, ?_⟩
    rw [advance_regs, hparams, ← List.cons_append, ticksIn_append, ← Nat.sub_sub]
    exact ht.next (by omega) rfl

/-- Settles O38: `runCycles_inWindow` up to the last cycle, then `InWindow.next` where a tick is still left and
`InWindow.last` where none is. -/
theorem windowRunsItsTicks : Obligations.WindowRunsItsTicks := by
  intro s i₀ j is rest hvalid hcnt hin hquiet hidle hbtn hch1 hticks
  obtain ⟨hpos, -⟩ := debounceTicks_bounds hvalid
  obtain ⟨t, hrun, hparams, htin, ht⟩ := runCycles_inWindow is (j :: rest) hvalid hcnt hin
    (fun x hx => hquiet x (by rw [← List.cons_append]; exact List.mem_append_left _ hx)) hidle hbtn hch1 hticks
  have hstep := step_noCommand (hparams ▸ hvalid) htin (hquiet j (by simp))
  rw [hparams] at hstep
  refine ⟨ticksIn_le_of_beginnings i₀ is hpos hticks, t, _, hrun, hstep, ht.captured, ht.accepted, ht.ptt, ht.remaining,
    ?_, ?_⟩
  · intro hleft
    have hu := ht.next (i := j) (c := { write := id, answer := noAnswer }) (by omega) rfl
    exact ⟨hu.captured, hu.ptt⟩
  · intro hdone
    rw [hdone, Nat.sub_self] at ht
    obtain ⟨hstate, hline, hptt⟩ := ht.last (i := j) (c := { write := id, answer := noAnswer }) rfl
    refine ⟨hstate, hline, hptt.trans ?_⟩
    rw [edgePolarity_eq_ite]
    by_cases hactive : i₀.btnIn = s.params.btnActiveLevel <;> simp [hactive]

end Sys2Proof.Machine

/-! PROOFS. The statements of spec/42_ptt.md: the internal events and the host commands as writers of the PTT triple (R74 to
R85), totality (R87), and the host's seconds conversion (R86). -/

namespace Sys2Proof.Machine

/-! ### Every command is total -/

/-- A valid configuration runs the cycle of every command (R87). -/
theorem exec_valid {s : State} (h : s.params.valid = true) (i : Instr) :
    exec i s = .next (advance s (nextRegs s.params s.regs (pins s) (hostCommand s i))) := by
  rw [exec_eq_runCycle, runCycle_valid _ _ h]

/-- A command in a cycle without reset: the registers of the five phases (R95). -/
theorem exec_live {s : State} (h : Live s) (i : Instr) :
    exec i s = .next (advance s (cycleRegs s.params s.regs (pins s) (hostCommand s i))) := by
  rw [exec_valid h.1, nextRegs_live _ _ _ _ h.2]

/-- Settles O7: a step and a command are one cycle each, which is refused only for an invalid configuration. -/
theorem validInstanceNeverStops : Obligations.ValidInstanceNeverStops :=
  fun _ hvalid => ⟨⟨_, step_valid hvalid⟩, fun i => ⟨_, exec_valid hvalid i⟩⟩

/-! ### The triple after each writer -/

/-- The state of the triple that the host command meets is the `eventState` of the statements (R96). -/
theorem eventTriple_p (r : Regs) (i : Inputs) : (eventTriple r i).p = eventState r i := by
  unfold eventState
  rcases eventTriple_cases r i with ⟨hf, ht, h⟩ | ⟨hf, ht, h⟩ | ⟨hf, ht, h⟩ | ⟨hf, ht, h⟩ <;> simp [hf, ht, h, toggled]

/-- Channel 1 after the events of a cycle: each event that acts disarms it (R76, R77). -/
theorem eventTriple_ch1 (r : Regs) (i : Inputs) :
    (eventTriple r i).ch1 = if fire1 r ∨ debToggle r i then { mode := .idle, ccr := r.ch1.ccr } else r.ch1 := by
  rcases eventTriple_cases r i with ⟨hf, ht, h⟩ | ⟨hf, ht, h⟩ | ⟨hf, ht, h⟩ | ⟨hf, ht, h⟩ <;>
    simp [hf, ht, h, Channel.disarm]

/-- The events of a cycle hold channel 1's target, so a writer that disarms the channel leaves the target the cycle
started with (R60, R74). -/
theorem eventTriple_ch1_disarm (r : Regs) (i : Inputs) :
    (eventTriple r i).ch1.disarm = { mode := .idle, ccr := r.ch1.ccr } := by
  rw [← eventTriple_ccr r i]
  rfl

section finalTriple
variable {r : Regs} {i : Inputs} {c : HostCommand}

/-- Without a writer of its own, a host command leaves the triple to the events (R78, R84, R85). -/
theorem finalTriple_of_id (hc : c.write = id) : finalTriple r i c = eventTriple r i := by
  rw [finalTriple, hc, id_eq]

/-- `SET_OFF` and `SET_ON` (R79, R80). -/
theorem finalTriple_of_setP {x : PttState} (hc : c.write = setP x) :
    finalTriple r i c = { p := x, ch1 := { mode := .idle, ccr := r.ch1.ccr } } := by
  rw [finalTriple, hc, setP, eventTriple_ch1_disarm]

/-- `TOGGLE` acts on the state that the events left (R81). -/
theorem finalTriple_of_toggleP (hc : c.write = toggleP) :
    finalTriple r i c =
      { p := if eventState r i = .on then .off else .on, ch1 := { mode := .idle, ccr := r.ch1.ccr } } := by
  rw [finalTriple, hc, toggleP, eventTriple_ch1_disarm, eventTriple_p, toggled_eq_ite]

/-- `ON_DELAY` replaces the whole triple (R83). -/
theorem finalTriple_of_pendP {p : Params} {d : Nat} (hc : c.write = pendP p r.cnt d) :
    finalTriple r i c = { p := .pending, ch1 := { mode := .armedCompare, ccr := (r.cnt + d) % 2 ^ p.w } } := by
  rw [finalTriple, hc]
  rfl

end finalTriple

/-! ### A command's cycle against `NOP`'s -/

/-- The registers outside `SameTimerAndDebounce` are all in which two cycles can differ (R62). -/
theorem regs_eq_update_of_same {q n : Regs} (h : SameTimerAndDebounce q n) :
    q = { n with
      pttState := q.pttState
      ch1 := q.ch1
      rspValid := q.rspValid
      rspData := q.rspData
      toneDiv := q.toneDiv
      toneOut := q.toneOut } := by
  cases q
  cases n
  obtain ⟨rfl, rfl, rfl, rfl, rfl, rfl⟩ := h
  rfl

section update
variable (p : Params) (r : Regs) (i : Inputs) (c d : HostCommand)

/-- Two commands in one cycle differ in the PTT side alone: the triple, the response register and the tone (R62). -/
theorem cycleRegs_eq_update :
    cycleRegs p r i c = { cycleRegs p r i d with
      pttState := (finalTriple r i c).p
      ch1 := (finalTriple r i c).ch1
      rspValid := (c.answer (finalTriple r i c).p).isSome
      rspData := (c.answer (finalTriple r i c).p).getD r.rspData
      toneDiv := (cycleRegs p r i c).toneDiv
      toneOut := (cycleRegs p r i c).toneOut } := by
  have hsame : SameTimerAndDebounce (cycleRegs p r i c) (cycleRegs p r i d) :=
    cycleRegs_congr c d ⟨rfl, rfl, rfl, rfl, rfl, rfl⟩ rfl rfl
  simpa only [cycleRegs_pttState, cycleRegs_ch1, cycleRegs_rspValid, cycleRegs_rspData] using
    regs_eq_update_of_same hsame

variable {c d}

/-- Two commands that answer nothing differ in the triple and the tone alone (R52). -/
theorem cycleRegs_eq_update_of_noAnswer (hc : c.answer = noAnswer) (hd : d.answer = noAnswer) :
    cycleRegs p r i c = { cycleRegs p r i d with
      pttState := (finalTriple r i c).p
      ch1 := (finalTriple r i c).ch1
      toneDiv := (cycleRegs p r i c).toneDiv
      toneOut := (cycleRegs p r i c).toneOut } := by
  have hvalid : (cycleRegs p r i d).rspValid = (c.answer (finalTriple r i c).p).isSome := by
    rw [cycleRegs_rspValid, hc, hd]
    rfl
  have hdata : (cycleRegs p r i d).rspData = (c.answer (finalTriple r i c).p).getD r.rspData := by
    rw [cycleRegs_rspData, hc, hd]
    rfl
  conv_lhs => rw [cycleRegs_eq_update p r i c d, ← hvalid, ← hdata]

/-- The tone is stopped and low at the end of a cycle that does not end in `ON` (R91). -/
theorem cycleRegs_tone_of_ne_on (h : (finalTriple r i c).p ≠ .on) :
    (cycleRegs p r i c).toneDiv = 0 ∧ (cycleRegs p r i c).toneOut = false := by
  rw [cycleRegs_toneDiv, cycleRegs_toneOut, if_neg fun hon => h hon.1, if_pos h]
  exact ⟨rfl, rfl⟩

end update

/-- The tone at the end of any cycle: with INV5 the divider's next value fits its register (R27, R91 to R93). -/
theorem cycleRegs_tone {p : Params} {r : Regs} (h : Inv5 p r) (i : Inputs) (c : HostCommand) :
    (cycleRegs p r i c).toneDiv = (toneAfter p r (finalTriple r i c).p).1 ∧
      (cycleRegs p r i c).toneOut = (toneAfter p r (finalTriple r i c).p).2 := by
  rw [cycleRegs_toneDiv, cycleRegs_toneOut, toneAfter]
  by_cases hend : (finalTriple r i c).p = .on
  · by_cases hstart : r.pttState = .on
    · by_cases hlast : r.toneDiv = p.toneHalfCycles - 1
      · simp [hend, hstart, hlast]
      · have hfits : r.toneDiv + 1 < p.toneHalfCycles := by omega
        simp [hend, hstart, hlast, latchToneDiv_of_lt hfits]
    · simp [hend, hstart]
  · simp [hend]

/-- Two commands that lead to the same triple and give the same answer have the same cycle. -/
theorem cycleRegs_eq_of_finalTriple_eq {p : Params} {r : Regs} {i : Inputs} {c d : HostCommand}
    (hfinal : finalTriple r i c = finalTriple r i d) (hanswer : c.answer = d.answer) :
    cycleRegs p r i c = cycleRegs p r i d := by
  rw [cycleRegs, cycleRegs, hfinal, hanswer]

/-- A command that answers nothing, against `NOP`: the triple it leads to and the tone of its cycle are all in which the
next states differ (R79 to R81). -/
theorem exec_noAnswer_against_nop {s : State} (h : Live s) (a : CmdArg) {i : Instr} {t : Triple} {div : Nat} {out : Level}
    (hanswer : (hostCommand s i).answer = noAnswer)
    (hfinal : finalTriple s.regs (pins s) (hostCommand s i) = t)
    (htone : (cycleRegs s.params s.regs (pins s) (hostCommand s i)).toneDiv = div ∧
      (cycleRegs s.params s.regs (pins s) (hostCommand s i)).toneOut = out) :
    ∃ n, exec (.nop a) s = .next n ∧ exec i s = .next { n with regs := { n.regs with
      pttState := t.p
      ch1 := t.ch1
      toneDiv := div
      toneOut := out } } := by
  obtain ⟨hdiv, hout⟩ := htone
  refine ⟨_, exec_live h (.nop a), ?_⟩
  rw [exec_live h i, cycleRegs_eq_update_of_noAnswer (d := hostCommand s (.nop a)) s.params s.regs (pins s) hanswer rfl,
    hfinal, hdiv, hout]
  rfl

/-- Settles O14: the triple of `SetP(OFF)`, which stops the tone. -/
theorem setOffResult : Obligations.SetOffResult := by
  intro s a hlive
  have hfinal := finalTriple_of_setP (r := s.regs) (i := pins s) (c := hostCommand s (.setOff a)) rfl
  have hoff : (finalTriple s.regs (pins s) (hostCommand s (.setOff a))).p ≠ .on := by
    rw [hfinal]
    nofun
  exact exec_noAnswer_against_nop hlive a rfl hfinal (cycleRegs_tone_of_ne_on s.params s.regs (pins s) hoff)

/-- Settles O15: the triple of `SetP(ON)`, and the tone of a cycle that ends in `ON`. -/
theorem setOnResult : Obligations.SetOnResult := by
  intro s a hlive hinv5
  exact exec_noAnswer_against_nop hlive a (i := .setOn a) rfl (finalTriple_of_setP rfl) (cycleRegs_tone hinv5 (pins s) _)

/-- Settles O17: the triple of `ToggleP` after the events, and the tone of a cycle that ends in its state. -/
theorem toggleResult : Obligations.ToggleResult := by
  intro s a hlive hinv5
  have hfinal := finalTriple_of_toggleP (r := s.regs) (i := pins s) (c := hostCommand s (.toggle a)) rfl
  have htone := cycleRegs_tone hinv5 (pins s) (hostCommand s (.toggle a))
  rw [hfinal] at htone
  exact exec_noAnswer_against_nop hlive a rfl hfinal htone

/-- Settles O18: the triple of `Arm(1, d)`, the answer `d`, and a tone that `PENDING` stops. -/
theorem onDelayResult : Obligations.OnDelayResult := by
  intro s a hlive
  have hfinal : finalTriple s.regs (pins s) (hostCommand s (.onDelay a)) =
      { p := .pending
        ch1 := { mode := .armedCompare, ccr := (s.regs.cnt + clampDelay s.params a) % 2 ^ s.params.w } } :=
    finalTriple_of_pendP rfl
  have hpending : (finalTriple s.regs (pins s) (hostCommand s (.onDelay a))).p ≠ .on := by
    rw [hfinal]
    nofun
  obtain ⟨hdiv, hout⟩ := cycleRegs_tone_of_ne_on s.params s.regs (pins s) hpending
  refine ⟨zext32_clampDelay_toNat hlive.1 a, _, exec_live hlive (.nop a), ?_⟩
  rw [exec_live hlive, cycleRegs_eq_update s.params s.regs (pins s) _ (hostCommand s (.nop a)), hfinal, hdiv, hout]
  rfl

/-! ### `NOP`, `GET` and a reserved opcode -/

/-- What a command that neither writes nor answers leaves on the PTT side (R78, R85). -/
theorem cycleRegs_of_no_effect (p : Params) (r : Regs) (i : Inputs) {c : HostCommand} (hwrite : c.write = id)
    (hanswer : c.answer = noAnswer) :
    (cycleRegs p r i c).pttState = eventState r i ∧ (cycleRegs p r i c).ch1 = (eventTriple r i).ch1 ∧
      (cycleRegs p r i c).rspValid = false ∧ (cycleRegs p r i c).rspData = r.rspData := by
  rw [cycleRegs_pttState, cycleRegs_ch1, finalTriple_of_id hwrite, eventTriple_p, cycleRegs_rspValid,
    cycleRegs_rspData, hanswer]
  exact ⟨rfl, rfl, rfl, rfl⟩

/-- Settles O13: `NOP` writes nothing after the events, and a step with an idle port has `NOP`'s host command. -/
theorem nopIsACycleWithoutCommand : Obligations.NopIsACycleWithoutCommand := by
  intro s a hlive
  obtain ⟨hstate, hch1, hvalid, hdata⟩ :=
    cycleRegs_of_no_effect s.params s.regs (pins s) (c := hostCommand s (.nop a)) rfl rfl
  refine ⟨_, exec_live hlive (.nop a), hstate, hch1.trans (eventTriple_ch1 _ _), hvalid, hdata, ?_⟩
  intro hport
  rw [step_live hlive, portCommand_none (presented_noCommand _ hport)]
  rfl

/-- The tone phase does not see the response register (R95). -/
theorem tonePhase_responsePhase (p : Params) (r a : Regs) (x : PttState) (o o' : Option RspWord) :
    tonePhase p r x (responsePhase o a) =
      { tonePhase p r x (responsePhase o' a) with rspValid := o.isSome, rspData := o.getD a.rspData } := by
  unfold tonePhase
  split_ifs <;> rfl

/-- Two commands that write the same triple differ in the response register alone. -/
theorem cycleRegs_eq_update_of_finalTriple_eq (p : Params) {r : Regs} {i : Inputs} {c d : HostCommand}
    (h : finalTriple r i c = finalTriple r i d) :
    cycleRegs p r i c = { cycleRegs p r i d with
      rspValid := (c.answer (finalTriple r i c).p).isSome
      rspData := (c.answer (finalTriple r i c).p).getD r.rspData } := by
  rw [cycleRegs, cycleRegs, h, tonePhase_responsePhase p r _ _ _ (d.answer (finalTriple r i d).p)]
  simp

/-- Settles O19: `GET` leads to `NOP`'s triple and answers the state of that triple. -/
theorem getReportsTheFinalState : Obligations.GetReportsTheFinalState := by
  intro s a hlive
  obtain ⟨hstate, -⟩ := cycleRegs_of_no_effect s.params s.regs (pins s) (c := hostCommand s (.nop a)) rfl rfl
  have hfinal : finalTriple s.regs (pins s) (hostCommand s (.get a)) =
      finalTriple s.regs (pins s) (hostCommand s (.nop a)) := rfl
  have hanswer : (hostCommand s (.get a)).answer (finalTriple s.regs (pins s) (hostCommand s (.get a))).p =
      some (if eventState s.regs (pins s) = .on then 1#32 else 0#32) := by
    rw [finalTriple_of_id rfl, eventTriple_p, ← flagWord_eq_ite]
    rfl
  refine ⟨_, exec_live hlive (.nop a), ?_, ?_⟩
  · rw [exec_live hlive, cycleRegs_eq_update_of_finalTriple_eq s.params hfinal, hanswer]
    rfl
  · rw [pttOut, beq_iff_eq]
    exact iff_of_eq (congrArg (· = PttState.on) hstate)

/-- A reserved opcode on the port (R50). -/
theorem presented_of_reserved_op {i : Inputs} (hvalid : i.cmdValid = true) (hop : i.cmdOp = 6#3 ∨ i.cmdOp = 7#3) :
    presented i = .reserved i.word := by
  have hword : decode i.word = .error (.reservedOpcode i.cmdOp) :=
    decode_eq_error_iff.2 ⟨opOf_append i.cmdOp i.cmdArg, hop⟩
  simp [presented, hvalid, hword]

/-- Settles O20: a reserved opcode's host command is `NOP`'s. -/
theorem reservedOpcodeActsAsNop : Obligations.ReservedOpcodeActsAsNop := by
  intro s a hlive hport hop
  obtain ⟨hstate, -, hvalid, hdata⟩ :=
    cycleRegs_of_no_effect s.params s.regs (pins s) (c := hostCommand s (.nop a)) rfl rfl
  have hstep := step_live hlive
  rw [portCommand_reserved (presented_of_reserved_op hport hop)] at hstep
  exact ⟨_, hstep, exec_live hlive (.nop a), hstate, hvalid, hdata⟩

/-! ### `SET_ON` while `ON` -/

/-- Unless `PENDING`, channel 1 is disarmed (INV2). -/
theorem ch1_idle_of_inv2 {r : Regs} (h : Inv2 r) (hptt : r.pttState ≠ .pending) : r.ch1.mode = .idle := by
  cases hmode : r.ch1.mode with
  | idle => rfl
  | armedCompare => exact absurd (h.2 hmode) hptt

/-- `SetP` of the state itself changes nothing where no delay is in progress (R74). -/
theorem setP_startTriple {r : Regs} (h : r.ch1.mode = .idle) : setP r.pttState (startTriple r) = startTriple r := by
  rw [setP, startTriple, Channel.disarm_of_idle h]

/-- Settles O16: no event acts, and `SetP(ON)` of an `ON` triple is that triple. -/
theorem setOnWhileOnIsNop : Obligations.SetOnWhileOnIsNop := by
  intro s a b hlive hinv2 hon htoggle
  have hidle : s.regs.ch1.mode = .idle := ch1_idle_of_inv2 hinv2 (by rw [hon]; decide)
  have hevents := eventTriple_of_no_event s.regs (pins s) (fire1_of_idle hidle) htoggle
  have hfinal : finalTriple s.regs (pins s) (hostCommand s (.setOn a)) =
      finalTriple s.regs (pins s) (hostCommand s (.nop b)) :=
    calc setP .on (eventTriple s.regs (pins s))
      _ = setP s.regs.pttState (startTriple s.regs) := by rw [hevents, hon]
      _ = startTriple s.regs := setP_startTriple hidle
      _ = eventTriple s.regs (pins s) := hevents.symm
  refine ⟨_, exec_live hlive (.setOn a), ?_⟩
  rw [cycleRegs_eq_of_finalTriple_eq hfinal rfl]
  exact exec_live hlive (.nop b)

/-! ### The internal events in a step -/

/-- With an idle port a step ends with the triple of the cycle's events (R76, R77). -/
theorem step_idlePort_triple {s : State} (hlive : Live s) (hport : (pins s).cmdValid = false) :
    ∃ t, step s = .next t ∧ t.regs.pttState = (eventTriple s.regs (pins s)).p ∧
      t.regs.ch1 = (eventTriple s.regs (pins s)).ch1 := by
  refine ⟨_, step_live hlive, ?_⟩
  rw [advance_regs, cycleRegs_pttState, cycleRegs_ch1, finalTriple_of_id (portCommand_write_of_idlePort hport)]
  exact ⟨rfl, rfl⟩

/-- Settles O24: the delay fire is the only writer. -/
theorem delayFireAssertsOn : Obligations.DelayFireAssertsOn := by
  intro s hlive hport htoggle harmed hreached
  have hfire : fire1 s.regs = true := (Channel.fires_iff _ _).2 ⟨harmed, hreached⟩
  obtain ⟨t, hstep, hstate, hch1⟩ := step_idlePort_triple hlive hport
  rw [eventTriple_p, eventState, hfire, htoggle] at hstate
  rw [eventTriple_ch1, hfire] at hch1
  have hon : t.regs.pttState = .on := hstate
  exact ⟨t, hstep, hon, by rw [pttOut, hon]; rfl, by simpa using hch1⟩

/-- Settles O25: the toggle acts on the state after the delay fire, if there is one. -/
theorem debounceToggleFlipsTheState : Obligations.DebounceToggleFlipsTheState := by
  intro s hlive hport htoggle
  obtain ⟨t, hstep, hstate, hch1⟩ := step_idlePort_triple hlive hport
  rw [eventTriple_p, eventState, htoggle, if_pos rfl, toggled_eq_ite] at hstate
  rw [eventTriple_ch1, htoggle] at hch1
  refine ⟨t, hstep, by simpa using hch1, ?_, ?_, ?_⟩
  · intro hfire
    simpa [hfire] using hstate
  · intro hfire hon
    simpa [hfire, hon] using hstate
  · intro hfire hnot
    simpa [hfire, hnot] using hstate

/-! ### After `SET_OFF` -/

/-- A state that nothing but a command or the button can bring to `ON`: `OFF`, no delay in progress, no window open, and the
line as last accepted at `line`. -/
structure AtRest (p : Params) (line : Level) (s : State) : Prop where
  params : s.params = p
  off : s.regs.pttState = .off
  noDelay : s.regs.ch1.mode = .idle
  noWindow : s.regs.debState = .idle
  accepted : s.regs.lineState = line

/-- A cycle without reset that ends `OFF` with channel 1 disarmed, with no window open and a steady button, ends at rest. -/
theorem atRest_advance {s : State} {i : Inputs} {c : HostCommand} (hidle : s.regs.debState = .idle)
    (hbtn : i.btnIn = s.regs.lineState) (hoff : (finalTriple s.regs i c).p = .off)
    (hch1 : (finalTriple s.regs i c).ch1.mode = .idle) :
    AtRest s.params s.regs.lineState (advance s (cycleRegs s.params s.regs i c)) := by
  obtain ⟨hstate, -, -, hline, -⟩ := cycleRegs_of_quiet (p := s.params) (c := c) (debounceEvent_steady hidle hbtn)
  exact
    { params := rfl
      off := (cycleRegs_pttState _ _ _ _).trans hoff
      noDelay := by rw [advance_regs, cycleRegs_ch1, hch1]
      noWindow := hstate.trans hidle
      accepted := hline }

/-- Rest lasts through a cycle with neither reset nor command, with the button steady. -/
theorem AtRest.next {p : Params} {line : Level} {s : State} {x : Inputs} {xs : List Inputs} (h : AtRest p line s)
    (hvalid : p.valid = true) (hin : s.inputs = x :: xs) (hx : NoCommand x) (hbtn : x.btnIn = line) :
    ∃ t, step s = .next t ∧ t.inputs = s.inputs.tail ∧ AtRest p line t := by
  obtain ⟨rfl, hoff, hch1, hidle, rfl⟩ := h
  have hevents := eventTriple_of_no_event s.regs x (fire1_of_idle hch1) (debToggle_of_idle x hidle)
  refine ⟨_, step_noCommand hvalid hin hx, rfl, atRest_advance hidle hbtn ?_ ?_⟩
  · rw [finalTriple_of_id rfl, hevents, startTriple_p, hoff]
  · rw [finalTriple_of_id rfl, hevents, startTriple_ch1, hch1]

/-- Settles O33: `SET_OFF` brings the state to rest, and every later cycle keeps it there. -/
theorem setOffCancelsForGood : Obligations.SetOffCancelsForGood := by
  intro s a i₀ is rest hvalid hin hrst hport hquiet hidle hbtn
  have hpins : pins s = i₀ := pins_cons s i₀ _ hin
  have hstep := step_live ⟨hvalid, hpins ▸ hrst⟩
  rw [portCommand_command (hpins ▸ hport), hpins] at hstep
  have hfinal := finalTriple_of_setP (r := s.regs) (i := i₀) (c := hostCommand s (.setOff a)) rfl
  have hstart := atRest_advance hidle (hbtn i₀ List.mem_cons_self) (by rw [hfinal]) (by rw [hfinal])
  obtain ⟨t, hrun, -, ht⟩ := runCycles_invariant (P := AtRest s.params s.regs.lineState) is rest _
    (by rw [advance_inputs, hin]; rfl) hstart
    fun u x xs hx hu hP => hP.next hvalid hu (hquiet x hx) (hbtn x (List.mem_cons_of_mem _ hx))
  refine ⟨t, ?_, ht.off, ht.noDelay, by rw [pttOut, ht.off]; rfl⟩
  rw [Nat.add_comm, runCycles_succ _ hstep]
  exact hrun

/-! ### The clamp and the seconds conversion -/

/-- Settles O21: the bounds are `clampDelay_bounds`, the two ends the equation of the clamp there. -/
theorem delayClamp : Obligations.DelayClamp := by
  intro p a hvalid
  obtain ⟨hlow, hhigh⟩ := clampDelay_bounds hvalid a
  have hclamp : clampDelay p a = max 1 (min a.toNat (2 ^ p.w - 1)) := rfl
  refine ⟨hclamp, hlow, Nat.le_sub_one_of_lt hhigh, ?_, ?_⟩
  · rintro rfl
    rw [hclamp, BitVec.toNat_ofNat, Nat.zero_mod, Nat.zero_min]
    rfl
  · intro hge
    omega

/-- R86's rounding is Mathlib's rounding to the nearest integer. -/
theorem roundHalfUp_eq_round (x : Rat) : roundHalfUp x = round x := (round_eq x).symm

/-- The delay that the block schedules for a request of `k` ticks: the host's bound of `2^32 - 1` is no tighter than the
block's clamp, since `W <= 32` (R8, R82, R86). -/
theorem clampDelay_request {p : Params} (h : p.valid = true) (k : Nat) :
    clampDelay p (BitVec.ofNat 32 (min k (2 ^ 32 - 1))) = max 1 (min k (2 ^ p.w - 1)) := by
  obtain ⟨-, hw, -⟩ := (Params.valid_iff p).1 h
  have hpow : 2 ^ p.w ≤ 2 ^ 32 := Nat.pow_le_pow_right (by decide) hw
  have hword : (BitVec.ofNat 32 (min k (2 ^ 32 - 1))).toNat = min k (2 ^ 32 - 1) := Nat.mod_eq_of_lt (by omega)
  rw [clampDelay, hword, maxDelayTicks]
  omega

/-- The delay reported for a clamped count, in seconds (R86). -/
theorem actualSeconds_clampDelay {p : Params} (h : p.valid = true) (a : CmdArg) :
    actualSeconds p (zext32 (clampDelay p a)) = (clampDelay p a : Rat) / p.fTick := by
  rw [actualSeconds, zext32_clampDelay_toNat h]

/-- A delay of the nearest whole number of ticks is within half a tick of the request. -/
theorem abs_round_div_sub_le {f : Rat} (hf : 0 < f) (sec : Rat) :
    |(round (sec * f) : Rat) / f - sec| ≤ 1 / (2 * f) := by
  have hdiff : (round (sec * f) : Rat) / f - sec = (round (sec * f) - sec * f) / f := by
    field_simp
  have hround : |(round (sec * f) : Rat) - sec * f| ≤ 1 / 2 := by
    rw [abs_sub_comm]
    exact abs_sub_round _
  calc |(round (sec * f) : Rat) / f - sec|
    _ = |(round (sec * f) : Rat) - sec * f| / f := by rw [hdiff, abs_div, abs_of_pos hf]
    _ ≤ 1 / 2 / f := by gcongr
    _ = 1 / (2 * f) := div_div _ _ _

/-- The clamp leaves a count in range as it is. -/
theorem clamp_eq_self {k : Int} {m : Nat} (hlow : 1 ≤ k) (hhigh : k ≤ m) :
    ((max 1 (min k.toNat m) : Nat) : Rat) = k := by
  have hclamp : ((max 1 (min k.toNat m) : Nat) : Int) = k := by omega
  exact_mod_cast hclamp

/-- A clamped nearest whole number of ticks is the request itself exactly if the request is a whole number in range. -/
theorem clamp_round_eq_iff {m : Nat} (hm : 1 ≤ m) (x : Rat) :
    ((max 1 (min (round x).toNat m) : Nat) : Rat) = x ↔ ∃ n : Nat, 1 ≤ n ∧ n ≤ m ∧ x = n := by
  constructor
  · intro h
    exact ⟨max 1 (min (round x).toNat m), by omega, by omega, h.symm⟩
  · rintro ⟨n, hlow, hhigh, rfl⟩
    rw [round_natCast, Int.toNat_natCast, min_eq_left hhigh, max_eq_right hlow]

theorem secToTicks_of_nonpos (p : Params) {sec : Rat} (h : sec ≤ 0) : secToTicks p sec = none :=
  if_neg (not_lt.2 h)

theorem secToTicks_of_pos (p : Params) {sec : Rat} (h : 0 < sec) :
    secToTicks p sec = some (min (round (sec * p.fTick)).toNat (2 ^ 32 - 1)) := by
  rw [secToTicks, if_pos h, roundHalfUp_eq_round]

/-- Settles O47: the delay scheduled is the clamped nearest whole number of ticks, which is the nearest one itself
wherever that one is in range. -/
theorem secondsConversion : Obligations.SecondsConversion := by
  intro p sec hvalid
  obtain ⟨hw, -, hf, -⟩ := (Params.valid_iff p).1 hvalid
  have hpow : 2 ^ 2 ≤ 2 ^ p.w := Nat.pow_le_pow_right (by decide) hw
  constructor
  · intro hsec
    have hnone := secToTicks_of_nonpos p hsec
    exact ⟨hnone, by rw [delayCommand, hnone]; rfl⟩
  · intro hsec
    have hreq := secToTicks_of_pos p hsec
    refine ⟨_, hreq, by omega, by rw [delayCommand, hreq]; rfl, ?_, ?_⟩
    all_goals rw [actualSeconds_clampDelay hvalid, clampDelay_request hvalid]
    · intro hlow hhigh
      have hround : (sec * p.fTick + 1 / 2).floor = round (sec * p.fTick) := roundHalfUp_eq_round _
      rw [hround] at hlow hhigh
      have hcast : ((2 ^ p.w - 1 : Nat) : Int) = 2 ^ p.w - 1 := by
        rw [Nat.cast_sub Nat.one_le_two_pow]
        norm_num
      rw [clamp_eq_self hlow (hcast.symm ▸ hhigh)]
      exact abs_round_div_sub_le hf sec
    · rw [div_eq_iff hf.ne']
      exact clamp_round_eq_iff (by omega) _

end Sys2Proof.Machine

/-! PROOFS. The statements of spec/43_tone.md: the gating of the tone by the state a cycle ends in (R91 to R93), and the
square wave of a held `ON` (R94). -/

namespace Sys2Proof.Machine

/-! ### The tone of one cycle -/

section tone
variable {p : Params} {r : Regs} {i : Inputs} {c : HostCommand}

/-- A cycle that leads to `ON` from another state starts the tone high (R92). -/
theorem cycleRegs_tone_of_start (hstart : r.pttState ≠ .on) (hend : (finalTriple r i c).p = .on) :
    (cycleRegs p r i c).toneDiv = 0 ∧ (cycleRegs p r i c).toneOut = true := by
  rw [cycleRegs_toneDiv, cycleRegs_toneOut, if_neg fun h => hstart h.2.1, if_neg (not_not.2 hend), if_pos hstart]
  exact ⟨rfl, rfl⟩

/-- A cycle that starts and ends in `ON` inverts the output at the end of a half-period and else counts on (R93). -/
theorem toneAfter_running (hstart : r.pttState = .on) :
    toneAfter p r .on =
      if r.toneDiv = p.toneHalfCycles - 1 then (0, !r.toneOut) else (r.toneDiv + 1, r.toneOut) := by
  rw [toneAfter, if_neg (not_not.2 rfl), if_neg (not_not.2 hstart)]

/-- The registers of the tone after a cycle that starts and ends in `ON` (R93). -/
theorem cycleRegs_tone_running (hinv5 : Inv5 p r) (hstart : r.pttState = .on) (hend : (finalTriple r i c).p = .on) :
    ((cycleRegs p r i c).toneDiv, (cycleRegs p r i c).toneOut) =
      if r.toneDiv = p.toneHalfCycles - 1 then (0, !r.toneOut) else (r.toneDiv + 1, r.toneOut) := by
  obtain ⟨hdiv, hout⟩ := cycleRegs_tone hinv5 i c
  rw [hdiv, hout, hend, toneAfter_running hstart]

end tone

/-- Settles O41: `cycleRegs_tone_of_ne_on` for the state the step ends in. -/
theorem toneStopsUnlessOn : Obligations.ToneStopsUnlessOn := by
  intro s hlive
  refine ⟨_, step_live hlive, fun hend => ?_⟩
  rw [advance_regs, cycleRegs_pttState] at hend
  exact cycleRegs_tone_of_ne_on _ _ _ hend

/-- Settles O42: a step that ends in `ON` is a start there. -/
theorem toneStartsHigh : Obligations.ToneStartsHigh := by
  intro s hlive hstart
  refine ⟨_, step_live hlive, fun hend => ?_⟩
  rw [advance_regs, cycleRegs_pttState] at hend
  exact cycleRegs_tone_of_start hstart hend

/-- Settles O43: `cycleRegs_tone_running`, which asks only in which state the cycle starts and ends, so it holds of two
toggles that cancel too. -/
theorem toneRunsWhileOn : Obligations.ToneRunsWhileOn := by
  intro s hlive hinv5 hstart
  refine ⟨_, step_live hlive, fun hend => ?_⟩
  rw [advance_regs, cycleRegs_pttState] at hend
  have htone := cycleRegs_tone_running hinv5 hstart hend
  constructor
  · intro hlast
    rw [if_pos hlast] at htone
    exact Prod.mk.inj htone
  · intro hinside
    rw [if_neg hinside] at htone
    exact Prod.mk.inj htone

/-! ### The square wave of a held `ON` -/

/-- The divider and the output of a square wave of half-periods of `half` cycles, `n` cycles after a half-period began
with the output `out` (R94). -/
def squareWave (half : Nat) (out : Level) (n : Nat) : Nat × Level :=
  (n % half, if n / half % 2 = 0 then out else !out)

theorem squareWave_zero (half : Nat) (out : Level) : squareWave half out 0 = (0, out) := by
  simp [squareWave]

/-- The cycle after the last one of a half-period is the first one of the next. -/
theorem div_mod_succ_of_last {half n : Nat} (hhalf : 1 ≤ half) (hlast : n % half = half - 1) :
    (n + 1) / half = n / half + 1 ∧ (n + 1) % half = 0 := by
  rw [Nat.div_mod_unique hhalf]
  have hn := Nat.mod_add_div n half
  rw [Nat.mul_add_one]
  omega

/-- The cycle after any other one is in the same half-period. -/
theorem div_mod_succ_of_inside {half n : Nat} (hhalf : 1 ≤ half) (hinside : n % half ≠ half - 1) :
    (n + 1) / half = n / half ∧ (n + 1) % half = n % half + 1 := by
  rw [Nat.div_mod_unique hhalf]
  have hn := Nat.mod_add_div n half
  have hlt := Nat.mod_lt n hhalf
  omega

/-- One half-period more inverts the output. -/
theorem not_ite_even (m : Nat) (out : Level) :
    (!if m % 2 = 0 then out else !out) = if (m + 1) % 2 = 0 then out else !out := by
  rcases Nat.mod_two_eq_zero_or_one m with h | h <;> simp [Nat.add_mod, h]

/-- The wave advances by the rule of R93. -/
theorem squareWave_succ {half : Nat} (hhalf : 1 ≤ half) (out : Level) (n : Nat) :
    squareWave half out (n + 1) =
      if (squareWave half out n).1 = half - 1 then (0, !(squareWave half out n).2)
      else ((squareWave half out n).1 + 1, (squareWave half out n).2) := by
  by_cases hlast : (squareWave half out n).1 = half - 1
  · obtain ⟨hdiv, hmod⟩ := div_mod_succ_of_last hhalf hlast
    rw [if_pos hlast]
    simp only [squareWave, hdiv, hmod, not_ite_even]
  · obtain ⟨hdiv, hmod⟩ := div_mod_succ_of_inside hhalf hlast
    rw [if_neg hlast]
    simp only [squareWave, hdiv, hmod]

/-- `ON` held for `n` cycles since a half-period began with the output `out`: no delay in progress, no window open, the
line as last accepted at `line`. -/
structure Sounding (p : Params) (line out : Level) (n : Nat) (r : Regs) : Prop where
  on : r.pttState = .on
  noDelay : r.ch1.mode = .idle
  noWindow : r.debState = .idle
  accepted : r.lineState = line
  wave : (r.toneDiv, r.toneOut) = squareWave p.toneHalfCycles out n

/-- Without a command and with the button steady, `ON` is held and the wave advances by a cycle (R93). -/
theorem Sounding.next {p : Params} {line out : Level} {n : Nat} {r : Regs} {i : Inputs} {c : HostCommand}
    (h : Sounding p line out n r) (hhalf : 1 ≤ p.toneHalfCycles) (hbtn : i.btnIn = line) (hc : c.write = id) :
    Sounding p line out (n + 1) (cycleRegs p r i c) := by
  obtain ⟨hon, hch1, hidle, rfl, hwave⟩ := h
  obtain ⟨hdiv, -⟩ := Prod.mk.inj hwave
  obtain ⟨hstate, -, -, hline, -⟩ := cycleRegs_of_quiet (p := p) (c := c) (debounceEvent_steady hidle hbtn)
  obtain ⟨hptt, hch1'⟩ := cycleRegs_ptt_of_no_writer (p := p) hc (fire1_of_idle hch1) (debToggle_of_idle i hidle)
  have hend : (cycleRegs p r i c).pttState = .on := hptt.trans hon
  have hinv5 : Inv5 p r := hdiv.trans_lt (Nat.mod_lt n hhalf)
  refine
    { on := hend
      noDelay := by rw [hch1', hch1]
      noWindow := hstate.trans hidle
      accepted := hline
      wave := ?_ }
  rw [cycleRegs_tone_running hinv5 hon (by rwa [cycleRegs_pttState] at hend), squareWave_succ hhalf, ← hwave]

/-- The wave runs through cycles with neither reset nor command, with the button steady. -/
theorem runCycles_sounding {line out : Level} {rest : List Inputs} (is : List Inputs) {n : Nat} {s : State}
    (hvalid : s.params.valid = true) (hin : s.inputs = is ++ rest)
    (hquiet : ∀ x ∈ is, NoCommand x ∧ x.btnIn = line) (h : Sounding s.params line out n s.regs) :
    ∃ t, runCycles is.length s = .next t ∧ Sounding s.params line out (n + is.length) t.regs := by
  obtain ⟨-, -, -, -, -, hhalf, -⟩ := (Params.valid_iff s.params).1 hvalid
  induction is generalizing n s with
  | nil => exact ⟨s, rfl, h⟩
  | cons x xs ih =>
    obtain ⟨hx, hbtn⟩ := hquiet x List.mem_cons_self
    have hstep := step_noCommand hvalid hin hx
    obtain ⟨t, hrun, ht⟩ := ih
      (s := advance s (cycleRegs s.params s.regs x { write := id, answer := noAnswer })) hvalid
      (by rw [advance_inputs, hin]; rfl) (fun y hy => hquiet y (List.mem_cons_of_mem x hy))
      (h.next hhalf hbtn rfl) hhalf
    refine ⟨t, by rw [List.length_cons, runCycles_succ _ hstep]; exact hrun, ?_⟩
    rw [List.length_cons, Nat.add_comm xs.length, ← Nat.add_assoc]
    exact ht

/-- Settles O44: the state is `Sounding` at the beginning of a half-period, and `runCycles_sounding`. -/
theorem toneIsSquareWave : Obligations.ToneIsSquareWave := by
  intro s is rest hvalid hin hquiet hidle hon hch1 hdiv
  have hstart : Sounding s.params s.regs.lineState s.regs.toneOut 0 s.regs :=
    { on := hon
      noDelay := hch1
      noWindow := hidle
      accepted := rfl
      wave := by rw [squareWave_zero, hdiv] }
  obtain ⟨t, hrun, ht⟩ := runCycles_sounding is hvalid hin hquiet hstart
  rw [Nat.zero_add] at ht
  obtain ⟨htdiv, htout⟩ := Prod.mk.inj ht.wave
  exact ⟨t, hrun, ht.on, htdiv, htout⟩

end Sys2Proof.Machine

/-! PROOFS. The statements of spec/44_cycle_step.md: what a step does beside the registers, the order of the writers
(R96), the causes of a transmission (R95, R96), and the invariants of R29 over every step (R99). -/

namespace Sys2Proof.Machine

/-! ### The fields beside the registers -/

/-- Settles O6: whatever registers a cycle latches, `advance` alone moves the model's other fields. -/
theorem stepKeepsInstanceAndTakesPins : Obligations.StepKeepsInstanceAndTakesPins := by
  intro s t hstep
  obtain ⟨-, rfl⟩ := step_next hstep
  exact ⟨advance_params _ _, advance_inputs _ _, advance_cycle _ _⟩

/-! ### The order of the writers -/

/-- Settles O23: `eventState` in its four cases, and the triple after each command's writer. -/
theorem hostCommandWritesLast : Obligations.HostCommandWritesLast := by
  intro s i hlive
  refine ⟨_, exec_live hlive i, ?_, ?_⟩
  · unfold eventState
    cases fire1 s.regs with
    | true => cases debToggle s.regs (pins s) <;> rfl
    | false =>
      cases debToggle s.regs (pins s) with
      | true => exact toggled_eq_ite _
      | false => rfl
  · rw [advance_regs, cycleRegs_pttState]
    cases i with
    | setOff a => exact congrArg Triple.p (finalTriple_of_setP rfl)
    | setOn a => exact congrArg Triple.p (finalTriple_of_setP rfl)
    | onDelay a => exact congrArg Triple.p (finalTriple_of_pendP rfl)
    | toggle a => exact congrArg Triple.p (finalTriple_of_toggleP rfl)
    | nop a => exact (congrArg Triple.p (finalTriple_of_id rfl)).trans (eventTriple_p _ _)
    | get a => exact (congrArg Triple.p (finalTriple_of_id rfl)).trans (eventTriple_p _ _)

/-! ### The causes of a transmission -/

/-- Only `SET_ON` and `TOGGLE` write `ON` into a triple that does not hold it (R78 to R84). -/
theorem hostCommand_write_on {s : State} {i : Instr} {t : Triple} (h : ((hostCommand s i).write t).p = .on) :
    (∃ a, i = .setOn a) ∨ (∃ a, i = .toggle a) ∨ t.p = .on := by
  cases i with
  | setOn a => exact .inl ⟨a, rfl⟩
  | toggle a => exact .inr (.inl ⟨a, rfl⟩)
  | nop a => exact .inr (.inr h)
  | get a => exact .inr (.inr h)
  | setOff a => cases h
  | onDelay a => cases h

/-- The same of what stands on the port. -/
theorem portCommand_write_on {s : State} {t : Triple} (h : ((portCommand s).write t).p = .on) :
    (∃ a, presented (pins s) = .command (.setOn a)) ∨ (∃ a, presented (pins s) = .command (.toggle a)) ∨
      t.p = .on := by
  cases hport : presented (pins s) with
  | none =>
    rw [portCommand_none hport] at h
    exact .inr (.inr h)
  | reserved w =>
    rw [portCommand_reserved hport] at h
    exact .inr (.inr h)
  | command i =>
    rw [portCommand_command hport] at h
    obtain ⟨a, rfl⟩ | ⟨a, rfl⟩ | ht := hostCommand_write_on h
    · exact .inl ⟨a, rfl⟩
    · exact .inr (.inl ⟨a, rfl⟩)
    · exact .inr (.inr ht)

/-- The events lead to `ON` only if one of them acts (R76, R77). -/
theorem eventTriple_on {r : Regs} {i : Inputs} (hstart : r.pttState ≠ .on) (h : (eventTriple r i).p = .on) :
    fire1 r = true ∨ debToggle r i = true := by
  rcases eventTriple_cases r i with ⟨-, -, hevents⟩ | ⟨hfire, -, -⟩ | ⟨-, htoggle, -⟩ | ⟨hfire, -, -⟩
  · rw [hevents, startTriple_p] at h
    exact absurd h hstart
  · exact .inl hfire
  · exact .inr htoggle
  · exact .inl hfire

/-- Settles O26: a reset cycle ends `OFF`; in any other cycle the command on the port wrote `ON`, or met it after the
events. -/
theorem transmitStartsOnlyForCause : Obligations.TransmitStartsOnlyForCause := by
  intro s t hstep hoff hon
  have hstart : s.regs.pttState ≠ .on := by simpa [pttOut] using hoff
  obtain ⟨-, rfl⟩ := step_next hstep
  cases hrst : (pins s).rst with
  | true =>
    rw [advance_regs, nextRegs_reset _ _ _ _ hrst] at hon
    cases hon
  | false =>
    rw [advance_regs, nextRegs_live _ _ _ _ hrst, pttOut, beq_iff_eq, cycleRegs_pttState] at hon
    refine ⟨rfl, ?_⟩
    obtain hset | htoggle | hevents := portCommand_write_on hon
    · exact .inr (.inr (.inl hset))
    · exact .inr (.inr (.inr htoggle))
    · obtain hfire | hdeb := eventTriple_on hstart hevents
      · exact .inl hfire
      · exact .inr (.inl hdeb)

/-! ### The invariants, by the part of the block that keeps them -/

/-- The invariants of the shared counter, channel 0 and the debounce engine: INV1, INV3, INV7 and the widths. -/
structure EngineSound (p : Params) (r : Regs) : Prop where
  cnt_lt : r.cnt < 2 ^ p.w
  ccr_lt : r.ch0.ccr < 2 ^ p.w
  inv1 : Inv1 r
  inv3 : Inv3 r
  inv7 : Inv7 p r

/-- The invariants of the PTT triple: INV2 and the width of channel 1's target. -/
structure DelaySound (p : Params) (t : Triple) : Prop where
  pending_iff : t.p = .pending ↔ t.ch1.mode = .armedCompare
  ccr_lt : t.ch1.ccr < 2 ^ p.w

/-- The invariants of the tone generator. -/
structure ToneSound (p : Params) (r : Regs) : Prop where
  inv4 : Inv4 r
  inv5 : Inv5 p r

/-- INV6: no state's encoding is 2'b11 (R25). -/
theorem PttState.bits_ne (x : PttState) : x.bits ≠ 0b11#2 := by
  cases x <;> decide

/-- INV8 is how the two outputs are defined (R28). -/
theorem inv8 (r : Regs) : Inv8 r := ⟨beq_iff_eq.symm, beq_iff_eq.symm⟩

/-- A good state is a valid instance whose three parts are sound: the encoding and the outputs are good of themselves,
and the divider's width follows from INV5 (R8). -/
theorem inv_iff (s : State) :
    Inv s ↔ s.params.valid = true ∧ EngineSound s.params s.regs ∧ DelaySound s.params (startTriple s.regs) ∧
      ToneSound s.params s.regs := by
  constructor
  · rintro ⟨hvalid, ⟨hcnt, hch0, hch1, -⟩, hinv1, hinv2, hinv3, hinv4, hinv5, -, hinv7, -⟩
    exact ⟨hvalid, ⟨hcnt, hch0, hinv1, hinv3, hinv7⟩, ⟨hinv2, hch1⟩, ⟨hinv4, hinv5⟩⟩
  · rintro ⟨hvalid, hengine, hdelay, htone⟩
    exact ⟨hvalid, ⟨hengine.cnt_lt, hengine.ccr_lt, hdelay.ccr_lt, lt_two_pow_tdWidth htone.inv5⟩, hengine.inv1,
      hdelay.pending_iff, hengine.inv3, htone.inv4, htone.inv5, PttState.bits_ne _, hengine.inv7, inv8 _⟩

/-! ### The counter and the debounce engine -/

section engine
variable {p : Params} {r : Regs} {i : Inputs} {c : HostCommand}

/-- Where the engine neither opens nor closes a window, the one that is open has not been reached, so it gets no longer
(R67, R69). -/
theorem EngineSound.of_kept (h : EngineSound p r) (hstate : (cycleRegs p r i c).debState = r.debState)
    (hch0 : (cycleRegs p r i c).ch0 = r.ch0) (hflag : Inv3 (cycleRegs p r i c))
    (hfire : r.debState = .captured → fire0 r = false) : EngineSound p (cycleRegs p r i c) := by
  refine
    { cnt_lt := cycleRegs_cnt_lt i c h.cnt_lt
      ccr_lt := by rw [hch0]; exact h.ccr_lt
      inv1 := by rw [Inv1, hstate, hch0]; exact h.inv1
      inv3 := hflag
      inv7 := fun hcaptured => ?_ }
  rw [hstate] at hcaptured
  have hleft : windowRemaining p r ≠ 0 := by
    intro hzero
    have hreached : r.ch0.ccr = r.cnt := (wrapSub_eq_zero h.ccr_lt h.cnt_lt).1 hzero
    have hexpired : fire0 r = true := (r.ch0.fires_iff r.cnt).2 ⟨h.inv1.1 hcaptured, hreached.symm⟩
    exact absurd hexpired (by rw [hfire hcaptured]; decide)
  calc windowRemaining p (cycleRegs p r i c)
    _ = windowRemaining p r - ticksIn [i] := by
      rw [windowRemaining, hch0, wrapSub_cycle i c h.ccr_lt h.cnt_lt hleft, windowRemaining]
    _ ≤ windowRemaining p r := Nat.sub_le _ _
    _ ≤ p.debounceTicks := h.inv7 hcaptured

/-- A new window is armed for `DEBOUNCE_TICKS` (R66). -/
theorem EngineSound.of_accept (h : EngineSound p r) (hvalid : p.valid = true) (hevent : debounceEvent r i = .accept) :
    EngineSound p (cycleRegs p r i c) := by
  obtain ⟨hpos, hlt⟩ := debounceTicks_bounds hvalid
  obtain ⟨hstate, -, -, -, hch0⟩ := cycleRegs_of_accept (p := p) (c := c) hevent
  have hdist : wrapSub p.w (wrapAdd p.w r.cnt p.debounceTicks) r.cnt = p.debounceTicks := wrapSub_wrapAdd h.cnt_lt hlt
  refine
    { cnt_lt := cycleRegs_cnt_lt i c h.cnt_lt
      ccr_lt := by rw [hch0]; exact wrapAdd_lt _ _ _
      inv1 := iff_of_true hstate (by rw [hch0, Channel.arm_mode])
      inv3 := fun _ => hstate
      inv7 := fun _ => ?_ }
  rw [windowRemaining, hch0, Channel.arm_ccr, wrapSub_cycle i c (wrapAdd_lt _ _ _) h.cnt_lt (by omega), hdist]
  exact Nat.sub_le _ _

/-- An expiry closes the window and disarms channel 0 (R68). -/
theorem EngineSound.of_expire (h : EngineSound p r) (hevent : debounceEvent r i = .expire) :
    EngineSound p (cycleRegs p r i c) := by
  obtain ⟨hstate, hch0, hflag, -, -⟩ := cycleRegs_of_expire (p := p) (c := c) hevent
  have hclosed : (cycleRegs p r i c).debState ≠ .captured := by rw [hstate]; decide
  exact
    { cnt_lt := cycleRegs_cnt_lt i c h.cnt_lt
      ccr_lt := by rw [hch0]; exact h.ccr_lt
      inv1 := iff_of_false hclosed (by rw [hch0]; exact nofun)
      inv3 := fun hset => absurd hset (by rw [hflag]; decide)
      inv7 := fun hcaptured => absurd hcaptured hclosed }

/-- The engine keeps its invariants in each of its four events. -/
theorem EngineSound.next (h : EngineSound p r) (hvalid : p.valid = true) : EngineSound p (cycleRegs p r i c) := by
  cases hevent : debounceEvent r i with
  | accept => exact h.of_accept hvalid hevent
  | expire => exact h.of_expire hevent
  | ignore =>
    obtain ⟨hcaptured, hfire, -⟩ := (debounceEvent_ignore r i).1 hevent
    obtain ⟨-, hstate, -, -, hch0⟩ := cycleRegs_of_ignore (p := p) (c := c) hevent
    exact h.of_kept hstate hch0 (fun _ => hstate.trans hcaptured) fun _ => hfire
  | quiet =>
    obtain ⟨hcases, -⟩ := (debounceEvent_quiet r i).1 hevent
    obtain ⟨hstate, -, hflag, -, hch0⟩ := cycleRegs_of_quiet (p := p) (c := c) hevent
    refine h.of_kept hstate hch0 (by rw [Inv3, hstate, hflag]; exact h.inv3) fun hcaptured => ?_
    obtain hidle | ⟨-, hfire⟩ := hcases
    · cases hidle.symm.trans hcaptured
    · exact hfire

end engine

/-! ### The PTT triple -/

section delay
variable {p : Params} {s : State} {t : Triple}

/-- A triple without a delay meets INV2. -/
theorem NoDelay.delaySound (h : NoDelay t) (hccr : t.ch1.ccr < 2 ^ p.w) : DelaySound p t :=
  ⟨iff_of_false h.notPending (by rw [h.disarmed]; decide), hccr⟩

/-- The events of a cycle leave the triple alone, or end a delay and hold its target (R76, R77). -/
theorem DelaySound.events {r : Regs} (i : Inputs) (h : DelaySound p (startTriple r)) :
    DelaySound p (eventTriple r i) := by
  obtain hsame | hends := eventTriple_noDelay r i
  · rwa [hsame]
  · exact hends.delaySound (by rw [eventTriple_ccr]; exact h.ccr_lt)

/-- Every command keeps the invariants of the triple (R78 to R84). -/
theorem DelaySound.hostCommand_write (h : DelaySound s.params t) (i : Instr) :
    DelaySound s.params ((hostCommand s i).write t) := by
  cases i with
  | nop a => exact h
  | get a => exact h
  | setOff a => exact (noDelay_setP (by decide) t).delaySound h.ccr_lt
  | setOn a => exact (noDelay_setP (by decide) t).delaySound h.ccr_lt
  | toggle a => exact (noDelay_toggleP t).delaySound h.ccr_lt
  | onDelay a => exact ⟨iff_of_true rfl rfl, wrapAdd_lt _ _ _⟩

/-- The same of what stands on the port (R46, R85). -/
theorem DelaySound.portCommand_write (h : DelaySound s.params t) : DelaySound s.params ((portCommand s).write t) := by
  cases hport : presented (pins s) with
  | none => rwa [portCommand_none hport]
  | reserved w => rwa [portCommand_reserved hport]
  | command i =>
    rw [portCommand_command hport]
    exact h.hostCommand_write i

end delay

/-- The triple that the next cycle starts with is the one that this cycle ends with (R73). -/
theorem startTriple_cycleRegs (p : Params) (r : Regs) (i : Inputs) (c : HostCommand) :
    startTriple (cycleRegs p r i c) = finalTriple r i c := by
  rw [startTriple, cycleRegs_pttState, cycleRegs_ch1]

/-! ### The tone generator -/

/-- The divider restarts or counts on below its last value (R91 to R93). -/
theorem toneAfter_div_lt {p : Params} {r : Regs} (hhalf : 1 ≤ p.toneHalfCycles) (h : Inv5 p r) (x : PttState) :
    (toneAfter p r x).1 < p.toneHalfCycles := by
  unfold toneAfter
  split_ifs with hend hstart hlast
  · exact hhalf
  · exact hhalf
  · exact hhalf
  · show r.toneDiv + 1 < p.toneHalfCycles
    omega

/-- The tone generator keeps its invariants: it is stopped and low outside `ON`, and else divides (R91 to R93). -/
theorem ToneSound.next {p : Params} {r : Regs} (h : ToneSound p r) (hhalf : 1 ≤ p.toneHalfCycles) (i : Inputs)
    (c : HostCommand) : ToneSound p (cycleRegs p r i c) := by
  obtain ⟨hdiv, -⟩ := cycleRegs_tone h.inv5 i c
  refine ⟨fun hend => ?_, hdiv.trans_lt (toneAfter_div_lt hhalf h.inv5 _)⟩
  rw [cycleRegs_pttState] at hend
  exact (cycleRegs_tone_of_ne_on p r i hend).symm

/-! ### Every step -/

/-- The values of a reset cycle are good in every valid instance (R99, R113). -/
theorem inv_resetRegs {s : State} (hvalid : s.params.valid = true) (btn : Level) : Inv (advance s (resetRegs btn)) := by
  obtain ⟨-, -, -, -, -, hhalf, -⟩ := (Params.valid_iff s.params).1 hvalid
  have hpos : 0 < 2 ^ s.params.w := Nat.two_pow_pos _
  refine (inv_iff _).2 ⟨hvalid, ?_, ?_, ?_⟩
  · exact ⟨hpos, hpos, iff_of_false nofun nofun, nofun, nofun⟩
  · exact ⟨iff_of_false nofun nofun, hpos⟩
  · exact ⟨fun _ => ⟨rfl, rfl⟩, hhalf⟩

/-- A cycle without reset keeps a good state good, part by part (R99). -/
theorem inv_cycleRegs {s : State} (h : Inv s) :
    Inv (advance s (cycleRegs s.params s.regs (pins s) (portCommand s))) := by
  obtain ⟨hvalid, hengine, hdelay, htone⟩ := (inv_iff s).1 h
  obtain ⟨-, -, -, -, -, hhalf, -⟩ := (Params.valid_iff s.params).1 hvalid
  refine (inv_iff _).2 ⟨hvalid, hengine.next hvalid, ?_, htone.next hhalf _ _⟩
  rw [advance_regs, startTriple_cycleRegs]
  exact (hdelay.events _).portCommand_write

/-- A reset cycle of a valid instance ends good, whatever the registers held (R99). -/
theorem step_reset_inv {s : State} (hvalid : s.params.valid = true) (hrst : (pins s).rst = true) :
    ∃ t, step s = .next t ∧ Inv t := by
  refine ⟨_, step_valid hvalid, ?_⟩
  rw [nextRegs_reset _ _ _ _ hrst]
  exact inv_resetRegs hvalid _

/-- Settles O45: a reset cycle by `inv_resetRegs`, any other cycle by `inv_cycleRegs`. -/
theorem stepKeepsInvariants : Obligations.StepKeepsInvariants := by
  refine ⟨fun s hinv => ?_, fun s => step_reset_inv⟩
  have hvalid : s.params.valid = true := hinv.1
  cases hrst : (pins s).rst with
  | true => exact step_reset_inv hvalid hrst
  | false => exact ⟨_, step_live ⟨hvalid, hrst⟩, inv_cycleRegs hinv⟩

end Sys2Proof.Machine

/-! PROOFS. The statements of spec/70_reset_and_hazards.md: the reset cycle and the cycles after it (R113, R114), a host
`TOGGLE` against a debounce toggle (R119), absorbed changes (R122), and cycles without ticks (R124). -/

namespace Sys2Proof.Machine

/-! ### The reset cycle -/

/-- A cycle with `rst = 1` latches the reset values, whatever stands on the command port (R113). -/
theorem runCycle_reset {s : State} (hvalid : s.params.valid = true) (hrst : (pins s).rst = true) (c : HostCommand) :
    runCycle s c = .next (advance s (resetRegs (pins s).btnIn)) := by
  rw [runCycle_valid _ _ hvalid, nextRegs_reset _ _ _ _ hrst]

theorem step_reset {s : State} (hvalid : s.params.valid = true) (hrst : (pins s).rst = true) :
    step s = .next (advance s (resetRegs (pins s).btnIn)) := by
  rw [step_eq_runCycle, runCycle_reset hvalid hrst]

/-- Settles O10: the registers that `step_reset` latches are the listed ones. -/
theorem resetCycleLatchesResetValues : Obligations.ResetCycleLatchesResetValues :=
  fun _ hvalid hrst => ⟨_, step_reset hvalid hrst, rfl⟩

/-- Settles O11: a command's cycle and a step are both the reset cycle, which does not depend on the host command. -/
theorem commandInResetCycleIsLost : Obligations.CommandInResetCycleIsLost := by
  intro s i hvalid hrst
  rw [exec_eq_runCycle, runCycle_reset hvalid hrst, step_reset hvalid hrst]

/-- The instance of `State.reset` meets the constraints of R8. -/
theorem vector_valid : Params.vector.valid = true := by decide

/-- Settles O46: `State.reset` holds the values of a reset cycle, which are good in every valid instance. -/
theorem resetStateIsGood : Obligations.ResetStateIsGood :=
  inv_resetRegs (s := State.reset) vector_valid false

/-! ### The cycles after reset -/

/-- Outside `ON` the tone phase stops the tone (R91). -/
theorem tonePhase_of_ne_on (p : Params) (r a : Regs) {x : PttState} (h : x ≠ .on) :
    tonePhase p r x a = { a with toneDiv := 0, toneOut := false } := if_pos h

/-- The reset values, but for a counter at `n`, with the button at `btn` in the last reset cycle. -/
def heldRegs (btn : Level) (n : Nat) : Regs := { resetRegs btn with cnt := n }

/-- From the reset values with any count, a cycle with neither reset nor command in which the button stays as in the reset
cycle moves the counter alone: no phase but the timer's has anything to do (R114). -/
theorem cycleRegs_heldRegs (p : Params) {btn : Level} (n : Nat) {i : Inputs} (hbtn : i.btnIn = btn) :
    cycleRegs p (heldRegs btn n) i { write := id, answer := noAnswer } =
      heldRegs btn (if i.tick then wrapAdd p.w n 1 else n) := by
  have hevent : debounceEvent (heldRegs btn n) i = .quiet := debounceEvent_steady rfl hbtn
  have hfinal : finalTriple (heldRegs btn n) i { write := id, answer := noAnswer } = startTriple (heldRegs btn n) :=
    (finalTriple_of_id rfl).trans (eventTriple_of_no_event _ _ (fire1_of_idle rfl) (debToggle_of_idle i rfl))
  have hoff : (startTriple (heldRegs btn n)).p ≠ .on := nofun
  rw [cycleRegs, hfinal, debouncePhase_quiet _ _ _ _ hevent, tonePhase_of_ne_on _ _ _ hoff]
  rfl

/-- Every register but the counter is at its reset value, with the button at `btn` in the last reset cycle. -/
structure AsReset (p : Params) (btn : Level) (s : State) : Prop where
  params : s.params = p
  regs : s.regs = heldRegs btn s.regs.cnt

theorem AsReset.next {p : Params} {btn : Level} {s : State} {x : Inputs} {xs : List Inputs} (h : AsReset p btn s)
    (hvalid : p.valid = true) (hin : s.inputs = x :: xs) (hx : NoCommand x) (hbtn : x.btnIn = btn) :
    ∃ t, step s = .next t ∧ t.inputs = s.inputs.tail ∧ AsReset p btn t := by
  obtain ⟨rfl, hregs⟩ := h
  refine ⟨_, step_noCommand hvalid hin hx, rfl, rfl, ?_⟩
  rw [advance_regs, hregs, cycleRegs_heldRegs _ _ hbtn]
  rfl

/-- Settles O12: the reset cycle gives `AsReset`, each later cycle keeps it, and the count is that of
`counterCountsTicks`. -/
theorem buttonHeldThroughResetIsQuiet : Obligations.ButtonHeldThroughResetIsQuiet := by
  intro s i₀ is rest hvalid hin hrst hquiet
  have hpins : pins s = i₀ := pins_cons s i₀ _ hin
  have hreset := step_reset hvalid (hpins ▸ hrst)
  rw [hpins] at hreset
  have htail : (advance s (resetRegs i₀.btnIn)).inputs = is ++ rest := by rw [advance_inputs, hin]; rfl
  obtain ⟨t, hrun, -, -, hregs⟩ := runCycles_invariant (P := AsReset s.params i₀.btnIn) is rest _ htail ⟨rfl, rfl⟩
    fun u x xs hx hu hP => hP.next hvalid hu (hquiet x hx).1 (hquiet x hx).2
  obtain ⟨t', hrun', hcnt⟩ := counterCountsTicks.2 (advance s (resetRegs i₀.btnIn)) is rest hvalid
    (Nat.two_pow_pos _) htail fun x hx => (hquiet x hx).1.1
  obtain rfl : t = t' := Host.Outcome.next.inj (hrun.symm.trans hrun')
  have hticks : t.regs.cnt = ticksIn is % 2 ^ s.params.w := hcnt.trans (congrArg (· % 2 ^ s.params.w) (Nat.zero_add _))
  refine ⟨t, by rw [Nat.add_comm, runCycles_succ _ hreset]; exact hrun, ?_⟩
  rw [hregs, hticks]
  rfl

/-! ### A host `TOGGLE` in the cycle of a debounce toggle -/

/-- Settles O28: the state is toggled by the debounce engine and then by the host. -/
theorem twoTogglesInOneCycleCancel : Obligations.TwoTogglesInOneCycleCancel := by
  intro s a hlive hfire htoggle
  have hevents : eventState s.regs (pins s) = toggled s.regs.pttState := by simp [eventState, hfire, htoggle]
  have hend : (finalTriple s.regs (pins s) (hostCommand s (.toggle a))).p = toggled (toggled s.regs.pttState) := by
    rw [← hevents, ← eventTriple_p]
    rfl
  refine ⟨_, exec_live hlive (.toggle a), ?_⟩
  rw [advance_regs, cycleRegs_pttState, hend, toggled_eq_on, Ne, toggled_eq_on, not_not]

/-! ### Absorbed changes -/

/-- A cycle without reset whose pins are scheduled, with the host command on the port (R95). -/
theorem step_live_cons {s : State} {i : Inputs} {is : List Inputs} (hvalid : s.params.valid = true)
    (hin : s.inputs = i :: is) (hrst : i.rst = false) :
    step s = .next (advance s (cycleRegs s.params s.regs i (portCommand s))) := by
  have hpins : pins s = i := pins_cons s i is hin
  rw [step_live ⟨hvalid, hpins ▸ hrst⟩, hpins]

/-- No window is open, no edge was ignored, and the line was last accepted at `line`. -/
structure WindowClosed (line : Level) (r : Regs) : Prop where
  idle : r.debState = .idle
  disarmed : r.ch0.mode = .idle
  noEdge : r.edgeIfg = false
  accepted : r.lineState = line

section windowClosed
variable {p : Params} {r : Regs} {i : Inputs} {c : HostCommand}

/-- An expiry closes the window at the level of its own cycle (R68). -/
theorem windowClosed_of_expire (h : debounceEvent r i = .expire) : WindowClosed i.btnIn (cycleRegs p r i c) := by
  obtain ⟨hstate, hch0, hflag, hline, -⟩ := cycleRegs_of_expire (p := p) (c := c) h
  exact ⟨hstate, by rw [hch0, Channel.disarm_mode], hflag, hline⟩

/-- With the line at the accepted level no window opens (R69). -/
theorem WindowClosed.next {line : Level} (h : WindowClosed line r) (hbtn : i.btnIn = line) :
    WindowClosed line (cycleRegs p r i c) := by
  obtain ⟨hstate, -, hflag, hline, hch0⟩ := cycleRegs_of_quiet (p := p) (c := c)
    (debounceEvent_steady h.idle (hbtn.trans h.accepted.symm))
  exact ⟨hstate.trans h.idle, by rw [hch0, h.disarmed], hflag.trans h.noEdge, hline.trans h.accepted⟩

end windowClosed

/-- Settles O39: the expiry accepts the line as it is, so the next cycle sees no edge. -/
theorem absorbedChangeOpensNoWindow : Obligations.AbsorbedChangeOpensNoWindow := by
  intro s i j rest hvalid hin hi hj hcaptured hfire _ hbtn
  have hexpiry := step_live_cons hvalid hin hi
  have hclosed : WindowClosed i.btnIn (cycleRegs s.params s.regs i (portCommand s)) :=
    windowClosed_of_expire ((debounceEvent_expire s.regs i).2 ⟨hcaptured, hfire⟩)
  have hnext := step_live_cons (s := advance s (cycleRegs s.params s.regs i (portCommand s))) (i := j) (is := rest)
    hvalid (by rw [advance_inputs, hin]; rfl) hj
  obtain ⟨hidle, hdisarmed, hnoEdge, haccepted⟩ := hclosed.next hbtn
  exact ⟨_, runCycles_then_step (runCycles_succ 0 hexpiry) hnext, hidle, hdisarmed, hnoEdge, haccepted⟩

/-! ### Cycles without ticks -/

section noTick
variable {p : Params} {r : Regs} {i : Inputs} {c : HostCommand}

theorem cycleRegs_cnt_of_no_tick (h : i.tick = false) : (cycleRegs p r i c).cnt = r.cnt := by
  rw [cycleRegs_cnt, h]
  rfl

/-- A channel does not fire on the count it was armed at: its target is less than a turn of the counter away (R57, R58). -/
theorem Channel.arm_fires {cnt d : Nat} (hcnt : cnt < 2 ^ p.w) (hpos : 1 ≤ d) (hd : d < 2 ^ p.w) :
    (Channel.arm p cnt d).fires cnt = false := by
  rw [Bool.eq_false_iff]
  intro hfires
  obtain ⟨-, hreached⟩ := (Channel.fires_iff _ _).1 hfires
  have hdist := wrapSub_wrapAdd hcnt hd
  rw [(wrapSub_eq_zero (wrapAdd_lt _ _ _) hcnt).2 hreached.symm] at hdist
  omega

/-- Without a tick, an engine that is not at its expiry does not come to it, even if it opens a window (R124). -/
theorem fire0_cycleRegs_of_no_tick (hvalid : p.valid = true) (hcnt : r.cnt < 2 ^ p.w) (htick : i.tick = false)
    (hfire : fire0 r = false) : fire0 (cycleRegs p r i c) = false := by
  rw [fire0, cycleRegs_cnt_of_no_tick htick]
  cases hevent : debounceEvent r i with
  | accept =>
    obtain ⟨-, -, -, -, hch0⟩ := cycleRegs_of_accept (p := p) (c := c) hevent
    obtain ⟨hpos, hlt⟩ := debounceTicks_bounds hvalid
    rw [hch0]
    exact Channel.arm_fires hcnt hpos hlt
  | ignore =>
    obtain ⟨-, -, -, -, hch0⟩ := cycleRegs_of_ignore (p := p) (c := c) hevent
    rw [hch0]
    exact hfire
  | expire =>
    obtain ⟨-, hch0, -⟩ := cycleRegs_of_expire (p := p) (c := c) hevent
    rw [hch0]
    exact Channel.disarm_fires _ _
  | quiet =>
    obtain ⟨-, -, -, -, hch0⟩ := cycleRegs_of_quiet (p := p) (c := c) hevent
    rw [hch0]
    exact hfire

/-- An engine that is not at its expiry requests no toggle (R70). -/
theorem debToggle_of_not_fire0 (i : Inputs) (hfire : fire0 r = false) : debToggle r i = false :=
  debToggle_of_ne_expire fun hevent => by
    obtain ⟨-, hfired⟩ := (debounceEvent_expire r i).1 hevent
    cases hfire.symm.trans hfired

end noTick

/-- The window that was open in the registers `r` is open still: the counter, its channel and the accepted level of the
line are as they were there. -/
structure StalledWindow (p : Params) (r : Regs) (s : State) : Prop where
  params : s.params = p
  captured : s.regs.debState = .captured
  cnt : s.regs.cnt = r.cnt
  ch0 : s.regs.ch0 = r.ch0
  accepted : s.regs.lineState = r.lineState

/-- A stalled window stays as it is through a cycle with neither reset nor tick, whatever the port and the button do. -/
theorem StalledWindow.next {p : Params} {r : Regs} {s : State} {x : Inputs} {xs : List Inputs}
    (h : StalledWindow p r s) (hvalid : p.valid = true) (hfire : fire0 r = false) (hin : s.inputs = x :: xs)
    (hrst : x.rst = false) (htick : x.tick = false) :
    ∃ t, step s = .next t ∧ t.inputs = s.inputs.tail ∧ StalledWindow p r t := by
  obtain ⟨rfl, hcaptured, hcnt, hch0, hline⟩ := h
  have hopen : fire0 s.regs = false := by rw [fire0, hcnt, hch0]; exact hfire
  obtain ⟨hstate', -, hline', hch0'⟩ :=
    cycleRegs_of_open_window (p := s.params) (i := x) (c := portCommand s) hcaptured hopen
  exact ⟨_, step_live_cons hvalid hin hrst, rfl, rfl, hstate', (cycleRegs_cnt_of_no_tick htick).trans hcnt,
    hch0'.trans hch0, hline'.trans hline⟩

/-- A delay in progress on the channel `ch`, with neither channel at its target. -/
structure StalledDelay (p : Params) (ch : Channel) (s : State) : Prop where
  params : s.params = p
  cnt_lt : s.regs.cnt < 2 ^ p.w
  pending : s.regs.pttState = .pending
  ch1 : s.regs.ch1 = ch
  not_fire1 : fire1 s.regs = false
  not_fire0 : fire0 s.regs = false

/-- A stalled delay stays as it is through a cycle with neither reset, command nor tick, whatever the button does. -/
theorem StalledDelay.next {p : Params} {ch : Channel} {s : State} {x : Inputs} {xs : List Inputs}
    (h : StalledDelay p ch s) (hvalid : p.valid = true) (hin : s.inputs = x :: xs) (hx : NoCommand x)
    (htick : x.tick = false) : ∃ t, step s = .next t ∧ t.inputs = s.inputs.tail ∧ StalledDelay p ch t := by
  obtain ⟨rfl, hcnt, hpending, hch1, hfire1, hfire0⟩ := h
  refine ⟨_, step_noCommand hvalid hin hx, rfl, ?_⟩
  obtain ⟨hptt', hch1'⟩ := cycleRegs_ptt_of_no_writer (p := s.params) (c := { write := id, answer := noAnswer }) rfl
    hfire1 (debToggle_of_not_fire0 x hfire0)
  exact
    { params := rfl
      cnt_lt := cycleRegs_cnt_lt x _ hcnt
      pending := hptt'.trans hpending
      ch1 := hch1'.trans hch1
      not_fire1 := by rw [advance_regs, fire1, hch1', cycleRegs_cnt_of_no_tick htick]; exact hfire1
      not_fire0 := fire0_cycleRegs_of_no_tick hvalid hcnt htick hfire0 }

/-- Settles O40: `StalledWindow` and `StalledDelay` are kept by every such cycle. -/
theorem noTicksNoProgress : Obligations.NoTicksNoProgress := by
  constructor
  · intro s is rest hvalid hin hstill hcaptured hfire
    obtain ⟨t, hrun, -, ht⟩ := runCycles_invariant (P := StalledWindow s.params s.regs) is rest s hin
      ⟨rfl, hcaptured, rfl, rfl, rfl⟩
      fun u x xs hx hu hP => hP.next hvalid hfire hu (hstill x hx).1 (hstill x hx).2
    exact ⟨t, hrun, ht.captured, ht.cnt, ht.ch0, ht.accepted⟩
  · intro s is rest hvalid hcnt hin hstill hpending hfire1 hfire0
    obtain ⟨t, hrun, -, ht⟩ := runCycles_invariant (P := StalledDelay s.params s.regs.ch1) is rest s hin
      ⟨rfl, hcnt, hpending, rfl, hfire1, hfire0⟩
      fun u x xs hx hu hP => hP.next hvalid hu (hstill x hx).1 (hstill x hx).2
    exact ⟨t, hrun, ht.pending, ht.ch1, by rw [pttOut, ht.pending]; rfl⟩

end Sys2Proof.Machine

/-! PROOFS. The words that spec/30_encoding.md and spec/95_test_vectors.md write out. -/

namespace Sys2Proof

/-- Settles O3: a word decodes to a command exactly when the command encodes to it (`decode_eq_ok_iff`), so each of the
six commands is checked by writing out its fields (R47); T-P14's word decodes to none because its opcode is reserved
(`decode_eq_error_iff`, R50). -/
theorem writtenWordsDecode : Obligations.WrittenWordsDecode := by
  have reserved : opOf 0x60000007B#35 = 6#3 := by decide
  refine ⟨?_, ?_, ?_, ?_, ?_, ?_, decode_eq_error_iff.2 ⟨reserved, .inl rfl⟩⟩
  all_goals
    rw [decode_eq_ok_iff]
    decide

end Sys2Proof
